-- ==== Sys2Proof/Word.lean ====
section
/-! DEFINITION. The fixed widths of the TTC Feistel core (00_scope.md R8: "None of these is configurable"). -/

namespace Sys2Proof

/-- A port word, a Block, a key, a plaintext, a ciphertext: W_BLOCK = 64 (R8). -/
abbrev Word := BitVec 64

/-- A HalfBlock: W_HALF = 32 (R8). -/
abbrev Half := BitVec 32

/-- A Subkey, and the expanded half: W_SUBKEY = 48 (R8). -/
abbrev Subkey := BitVec 48

/-- An S-box input: W_CHUNK_IN = 6 (R8). -/
abbrev Chunk := BitVec 6

/-- An S-box output: W_CHUNK_OUT = 4 (R8). -/
abbrev Nibble := BitVec 4

/-- The subkey file `SK[0..15]`: N_ROUNDS = 16 subkeys (R8; 10_state.md R22). -/
abbrev SubkeyFile := Vector Subkey 16

end Sys2Proof
end

