-- ==== Sys2Proof/Syntax.lean ====
section
/-! DEFINITION. The commands: the triple on the ports, and the twenty-four rows of the opcode table. -/

namespace Sys2Proof

/-- A command as it arrives: "a 16-bit command word `cmd_word` and two 64-bit operand words `cmd_a`, `cmd_b`"
(30_encoding.md R60). -/
structure Command where
  word : BitVec 16
  a    : Word
  b    : Word
  deriving DecidableEq, Repr

/-- One constructor per row of 30_encoding.md R76. A constructor carries the fields the row uses (`idx` is `IDX`, `val`
is `VAL`) and the operand words it uses (R63); "An operand word a command does not use ... is ignored entirely and is
not part of the encoding" (R68). DEDUCED (log 10). -/
inductive Instr where
  /-- `STATUS` (45_system_and_host.md R190) -/
  | status
  /-- `LOADKEY a` (42_key_schedule.md R131) -/
  | loadkey (a : Word)
  /-- `ENCODE a` (44_driver.md R176) -/
  | encode (a : Word)
  /-- `FEISTEL a, b` (43_round_function.md R154) -/
  | feistel (a b : Word)
  /-- `EXPAND a` (R151) -/
  | expand (a : Word)
  /-- `SUBST a` (R152) -/
  | subst (a : Word)
  /-- `PERMUTE a` (R153) -/
  | permute (a : Word)
  /-- `RDSUBKEY #r` (42_key_schedule.md R132) -/
  | rdsubkey (idx : Nat)
  /-- `BBINT.32 a` (40_bitblock.md R93) -/
  | bbint32 (a : Word)
  /-- `BBINT.48 a` (R93) -/
  | bbint48 (a : Word)
  /-- `BBINT.64 a` (R93) -/
  | bbint64 (a : Word)
  /-- `BBGET.32 #i, a` (R94) -/
  | bbget32 (idx : Nat) (a : Word)
  /-- `BBGET.48 #i, a` (R94) -/
  | bbget48 (idx : Nat) (a : Word)
  /-- `BBGET.64 #i, a` (R94) -/
  | bbget64 (idx : Nat) (a : Word)
  /-- `BBSET.32 #i, #c, a` (R95) -/
  | bbset32 (idx : Nat) (val : Bool) (a : Word)
  /-- `BBSET.48 #i, #c, a` (R95) -/
  | bbset48 (idx : Nat) (val : Bool) (a : Word)
  /-- `BBSET.64 #i, #c, a` (R95) -/
  | bbset64 (idx : Nat) (val : Bool) (a : Word)
  /-- `BBXOR.32 a, b` (R96) -/
  | bbxor32 (a b : Word)
  /-- `BBXOR.48 a, b` (R96) -/
  | bbxor48 (a b : Word)
  /-- `BBXOR.64 a, b` (R96) -/
  | bbxor64 (a b : Word)
  /-- `DISCARD` (45_system_and_host.md R192) -/
  | discard
  /-- `RDTAB.E #i` (41_tables.md R120) -/
  | rdtabE (idx : Nat)
  /-- `RDTAB.P #i` (R120) -/
  | rdtabP (idx : Nat)
  /-- `RDTAB.S #i`, `IDX = 16*row + col` (R120; 30_encoding.md R75) -/
  | rdtabS (idx : Nat)
  deriving DecidableEq, Repr

/-- The mnemonic of a row, as 30_encoding.md R76 spells it. -/
def Instr.mnemonic : Instr → String
  | .status => "STATUS"
  | .loadkey _ => "LOADKEY"
  | .encode _ => "ENCODE"
  | .feistel _ _ => "FEISTEL"
  | .expand _ => "EXPAND"
  | .subst _ => "SUBST"
  | .permute _ => "PERMUTE"
  | .rdsubkey _ => "RDSUBKEY"
  | .bbint32 _ => "BBINT.32"
  | .bbint48 _ => "BBINT.48"
  | .bbint64 _ => "BBINT.64"
  | .bbget32 _ _ => "BBGET.32"
  | .bbget48 _ _ => "BBGET.48"
  | .bbget64 _ _ => "BBGET.64"
  | .bbset32 _ _ _ => "BBSET.32"
  | .bbset48 _ _ _ => "BBSET.48"
  | .bbset64 _ _ _ => "BBSET.64"
  | .bbxor32 _ _ => "BBXOR.32"
  | .bbxor48 _ _ => "BBXOR.48"
  | .bbxor64 _ _ => "BBXOR.64"
  | .discard => "DISCARD"
  | .rdtabE _ => "RDTAB.E"
  | .rdtabP _ => "RDTAB.P"
  | .rdtabS _ => "RDTAB.S"

/-- The pseudo-command `NEW a` is `LOADKEY a` (R74). -/
abbrev Instr.new (a : Word) : Instr := .loadkey a

/-- The pseudo-command `MIX a, b` is `BBXOR.48 a, b` (R74). -/
abbrev Instr.mix (a b : Word) : Instr := .bbxor48 a b

/-- The pseudo-command `NOP` is `STATUS` (R74). -/
abbrev Instr.nop : Instr := .status

end Sys2Proof
end

