-- ==== Sys2Proof/WellFormed.lean ====
section
/-! DEFINITION. Which instruction terms a command word can express. -/

namespace Sys2Proof

/-- "`IDX` is a 6-bit unsigned integer, 0..63" (30_encoding.md R65). An `IDX` beyond the command's legal range but
within six bits is well-formed: it "is not an encoding error but a value error". -/
def idxFits (idx : Nat) : Bool := decide (idx < 64)

/-- An instruction is well-formed when its `IDX`, if the row has one, fits the field; every other field and operand is
bounded by its type. -/
def Instr.wellFormed : Instr → Bool
  | .status => true
  | .loadkey _ => true
  | .encode _ => true
  | .feistel _ _ => true
  | .expand _ => true
  | .subst _ => true
  | .permute _ => true
  | .rdsubkey idx => idxFits idx
  | .bbint32 _ => true
  | .bbint48 _ => true
  | .bbint64 _ => true
  | .bbget32 idx _ => idxFits idx
  | .bbget48 idx _ => idxFits idx
  | .bbget64 idx _ => idxFits idx
  | .bbset32 idx _ _ => idxFits idx
  | .bbset48 idx _ _ => idxFits idx
  | .bbset64 idx _ _ => idxFits idx
  | .bbxor32 _ _ => true
  | .bbxor48 _ _ => true
  | .bbxor64 _ _ => true
  | .discard => true
  | .rdtabE idx => idxFits idx
  | .rdtabP idx => idxFits idx
  | .rdtabS idx => idxFits idx

end Sys2Proof
end

