-- ==== Sys2Proof/Decode.lean ====
section
/-! DEFINITION. The decoder, total on every command, rejecting by name; then the encoder; then the table of R76. -/

namespace Sys2Proof

/-! ## The fields of a command word (30_encoding.md R61, R62) -/

/-- `OP = cmd_word[15:12]`. -/
def cmdOp (w : BitVec 16) : BitVec 4 := w.extractLsb' 12 4

/-- `WSEL = cmd_word[11:10]`; for `RDTAB` the same bits are `TSEL` (R75). -/
def cmdWsel (w : BitVec 16) : BitVec 2 := w.extractLsb' 10 2

/-- `IDX = cmd_word[9:4]`, "an unsigned index 0..63". -/
def cmdIdx (w : BitVec 16) : BitVec 6 := w.extractLsb' 4 6

/-- `VAL = cmd_word[3]`. -/
def cmdVal (w : BitVec 16) : Bool := w.getLsbD 3

/-- `ZERO = cmd_word[2:0]`, "reserved, must be 0". -/
def cmdZero (w : BitVec 16) : BitVec 3 := w.extractLsb' 0 3

/-! ## Decoding -/

/-- Why a command word is illegal: the clauses of 30_encoding.md R71. All raise the one code `ERR_ILLEGAL` (60_exceptions.md
R216), so which name is given when several clauses hold is the model's choice. DESIGN CHOICE (log 17), safe. -/
inductive Illegal where
  /-- "`OP` is 0xE or 0xF" -/
  | reservedOp
  /-- "`ZERO != 0`" (R67) -/
  | zeroField
  /-- "`OP` is 0x8..0xB and `WSEL = 11`" (R64) -/
  | reservedWidth
  /-- "`OP = 0xD` and `TSEL = 11`" (R75) -/
  | reservedTable
  /-- "a field the command does not use is nonzero" (R70) -/
  | unusedField
  deriving DecidableEq, Repr

/-- "Unused fields must be zero" (R70): go on with `i` only where they are. -/
def ifUnusedZero (unusedZero : Bool) (i : Except Illegal Instr) : Except Illegal Instr :=
  if unusedZero then i else .error .unusedField

/-- A command that uses none of `WSEL`, `IDX`, `VAL`. -/
def bareCommand (w : BitVec 16) (i : Instr) : Except Illegal Instr :=
  ifUnusedZero (cmdWsel w == 0#2 && cmdIdx w == 0#6 && !cmdVal w) (.ok i)

/-- The three widths of `WSEL` (R64). -/
def byWidth (w : BitVec 16) (i32 i48 i64 : Instr) : Except Illegal Instr :=
  match cmdWsel w with
  | 0b00#2 => .ok i32
  | 0b01#2 => .ok i48
  | 0b10#2 => .ok i64
  | _ => .error .reservedWidth

/-- The three tables of `TSEL` (R75). -/
def byTable (w : BitVec 16) (iE iP iS : Instr) : Except Illegal Instr :=
  match cmdWsel w with
  | 0b00#2 => .ok iE
  | 0b01#2 => .ok iP
  | 0b10#2 => .ok iS
  | _ => .error .reservedTable

/-- The decoder (R63, R70, R71, R75, R76). "The decoder looks at `cmd_word` only; the operand words never influence which
command is selected" (R60): `c.a` and `c.b` appear only as operands. -/
def decode (c : Command) : Except Illegal Instr :=
  let w := c.word
  let idx := (cmdIdx w).toNat
  if cmdZero w ≠ 0#3 then .error .zeroField
  else
    match cmdOp w with
    | 0x0#4 => bareCommand w .status
    | 0x1#4 => bareCommand w (.loadkey c.a)
    | 0x2#4 => bareCommand w (.encode c.a)
    | 0x3#4 => bareCommand w (.feistel c.a c.b)
    | 0x4#4 => bareCommand w (.expand c.a)
    | 0x5#4 => bareCommand w (.subst c.a)
    | 0x6#4 => bareCommand w (.permute c.a)
    | 0x7#4 => ifUnusedZero (cmdWsel w == 0#2 && !cmdVal w) (.ok (.rdsubkey idx))
    | 0x8#4 => ifUnusedZero (cmdIdx w == 0#6 && !cmdVal w) (byWidth w (.bbint32 c.a) (.bbint48 c.a) (.bbint64 c.a))
    | 0x9#4 => ifUnusedZero (!cmdVal w) (byWidth w (.bbget32 idx c.a) (.bbget48 idx c.a) (.bbget64 idx c.a))
    | 0xA#4 => byWidth w (.bbset32 idx (cmdVal w) c.a) (.bbset48 idx (cmdVal w) c.a) (.bbset64 idx (cmdVal w) c.a)
    | 0xB#4 => ifUnusedZero (cmdIdx w == 0#6 && !cmdVal w)
        (byWidth w (.bbxor32 c.a c.b) (.bbxor48 c.a c.b) (.bbxor64 c.a c.b))
    | 0xC#4 => bareCommand w .discard
    | 0xD#4 => ifUnusedZero (!cmdVal w) (byTable w (.rdtabE idx) (.rdtabP idx) (.rdtabS idx))
    | _ => .error .reservedOp

/-! ## Encoding -/

/-- A command word from its fields (R61), `ZERO` zero (R67). -/
def cmdWord (op : BitVec 4) (wsel : BitVec 2) (idx : Nat) (val : Bool) : BitVec 16 :=
  op ++ wsel ++ BitVec.ofNat 6 idx ++ BitVec.ofBool val ++ 0#3

/-- The command of an instruction; "an omitted operand word is sent as 0" (R73). -/
def encode : Instr → Command
  | .status => ⟨cmdWord 0x0 0 0 false, 0, 0⟩
  | .loadkey a => ⟨cmdWord 0x1 0 0 false, a, 0⟩
  | .encode a => ⟨cmdWord 0x2 0 0 false, a, 0⟩
  | .feistel a b => ⟨cmdWord 0x3 0 0 false, a, b⟩
  | .expand a => ⟨cmdWord 0x4 0 0 false, a, 0⟩
  | .subst a => ⟨cmdWord 0x5 0 0 false, a, 0⟩
  | .permute a => ⟨cmdWord 0x6 0 0 false, a, 0⟩
  | .rdsubkey idx => ⟨cmdWord 0x7 0 idx false, 0, 0⟩
  | .bbint32 a => ⟨cmdWord 0x8 0b00 0 false, a, 0⟩
  | .bbint48 a => ⟨cmdWord 0x8 0b01 0 false, a, 0⟩
  | .bbint64 a => ⟨cmdWord 0x8 0b10 0 false, a, 0⟩
  | .bbget32 idx a => ⟨cmdWord 0x9 0b00 idx false, a, 0⟩
  | .bbget48 idx a => ⟨cmdWord 0x9 0b01 idx false, a, 0⟩
  | .bbget64 idx a => ⟨cmdWord 0x9 0b10 idx false, a, 0⟩
  | .bbset32 idx val a => ⟨cmdWord 0xA 0b00 idx val, a, 0⟩
  | .bbset48 idx val a => ⟨cmdWord 0xA 0b01 idx val, a, 0⟩
  | .bbset64 idx val a => ⟨cmdWord 0xA 0b10 idx val, a, 0⟩
  | .bbxor32 a b => ⟨cmdWord 0xB 0b00 0 false, a, b⟩
  | .bbxor48 a b => ⟨cmdWord 0xB 0b01 0 false, a, b⟩
  | .bbxor64 a b => ⟨cmdWord 0xB 0b10 0 false, a, b⟩
  | .discard => ⟨cmdWord 0xC 0 0 false, 0, 0⟩
  | .rdtabE idx => ⟨cmdWord 0xD 0b00 idx false, 0, 0⟩
  | .rdtabP idx => ⟨cmdWord 0xD 0b01 idx false, 0, 0⟩
  | .rdtabS idx => ⟨cmdWord 0xD 0b10 idx false, 0, 0⟩

/-! ## The table of R76, row by row -/

/-- One row of R76: "a word `w` selects the row with `(w and mask) = match`". -/
structure OpcodeRow where
  mnemonic : String
  value    : BitVec 16
  mask     : BitVec 16
  deriving DecidableEq, Repr

/-- `(w and mask) = match` (R76). -/
def OpcodeRow.selects (row : OpcodeRow) (w : BitVec 16) : Bool := (w &&& row.mask) == row.value

/-- The twenty-four rows of R76, copied from the rule. -/
def opcodeRows : List OpcodeRow :=
  [⟨"STATUS", 0x0000, 0xFFFF⟩, ⟨"LOADKEY", 0x1000, 0xFFFF⟩, ⟨"ENCODE", 0x2000, 0xFFFF⟩, ⟨"FEISTEL", 0x3000, 0xFFFF⟩,
   ⟨"EXPAND", 0x4000, 0xFFFF⟩, ⟨"SUBST", 0x5000, 0xFFFF⟩, ⟨"PERMUTE", 0x6000, 0xFFFF⟩, ⟨"RDSUBKEY", 0x7000, 0xFC0F⟩,
   ⟨"BBINT.32", 0x8000, 0xFFFF⟩, ⟨"BBINT.48", 0x8400, 0xFFFF⟩, ⟨"BBINT.64", 0x8800, 0xFFFF⟩,
   ⟨"BBGET.32", 0x9000, 0xFC0F⟩, ⟨"BBGET.48", 0x9400, 0xFC0F⟩, ⟨"BBGET.64", 0x9800, 0xFC0F⟩,
   ⟨"BBSET.32", 0xA000, 0xFC07⟩, ⟨"BBSET.48", 0xA400, 0xFC07⟩, ⟨"BBSET.64", 0xA800, 0xFC07⟩,
   ⟨"BBXOR.32", 0xB000, 0xFFFF⟩, ⟨"BBXOR.48", 0xB400, 0xFFFF⟩, ⟨"BBXOR.64", 0xB800, 0xFFFF⟩,
   ⟨"DISCARD", 0xC000, 0xFFFF⟩,
   ⟨"RDTAB.E", 0xD000, 0xFC0F⟩, ⟨"RDTAB.P", 0xD400, 0xFC0F⟩, ⟨"RDTAB.S", 0xD800, 0xFC0F⟩]

/-! ## The host's numbering of an instruction's bits -/

/-- The command whose bits are `w`, of which the table gives the low `nbits`: the command word is bits 15..0, `cmd_a`
bits 79..16, `cmd_b` bits 143..80, and every bit above `nbits` is 0. DESIGN CHOICE (log 11): the spec numbers no bits
across the three words of a command; safe, no behaviour depends on it. -/
def Command.ofTableWord (nbits w : Nat) : Command :=
  let v := w % 2 ^ nbits
  ⟨BitVec.ofNat 16 v, BitVec.ofNat 64 (v / 2 ^ 16), BitVec.ofNat 64 (v / 2 ^ 80)⟩

/-- What the decoder reads from those bits. -/
def decodeTableWord (nbits w : Nat) : Option Instr :=
  match decode (Command.ofTableWord nbits w) with
  | .ok i => some i
  | .error _ => none

end Sys2Proof
end

