-- ==== Sys2Proof/Config.lean ====
section
/-! DEFINITION. What an implementation fixes (the table set) and the free values the spec leaves open. -/

namespace Sys2Proof

/-- `TABLES = (E, P, SBOX)` (41_tables.md R110), with the entry counts and entry widths of 20_memory.md R40.
An entry of `E` or `P` is a 1-based position counted from the most significant bit (00_scope.md R13). -/
structure Tables where
  e    : Vector (BitVec 6) 48
  p    : Vector (BitVec 6) 32
  sbox : Vector (Vector Nibble 16) 4
  deriving DecidableEq, Repr, Inhabited

namespace Tables

/-- R113: every entry of `E` is in 1..32, and every value 1..32 occurs at least once and at most twice. -/
abbrev ExpansionOk (T : Tables) : Prop :=
  (∀ i : Fin 48, 1 ≤ T.e[i].toNat ∧ T.e[i].toNat ≤ 32) ∧
  (∀ v : Fin 32, 1 ≤ T.e.toList.count (BitVec.ofNat 6 (v.val + 1)) ∧ T.e.toList.count (BitVec.ofNat 6 (v.val + 1)) ≤ 2)

/-- R114: every entry of `P` is in 1..32, and every value 1..32 occurs exactly once. -/
abbrev PermutationOk (T : Tables) : Prop :=
  (∀ i : Fin 32, 1 ≤ T.p[i].toNat ∧ T.p[i].toNat ≤ 32) ∧
  (∀ v : Fin 32, T.p.toList.count (BitVec.ofNat 6 (v.val + 1)) = 1)

/-- R115: four rows of sixteen entries in 0..15; the shape and the width hold by the type, and "The source puts no
other constraint on it". -/
abbrev SubstitutionOk (T : Tables) : Prop :=
  ∀ r : Fin 4, ∀ c : Fin 16, (T.sbox[r][c]).toNat ≤ 15

/-- `WF(TABLES)` (R116): the conjunction of R113, R114 and R115. -/
abbrev WF (T : Tables) : Prop := T.ExpansionOk ∧ T.PermutationOk ∧ T.SubstitutionOk

end Tables

/-- `TABLES_REF` (R118). PRESUMED (log 18): the spec marks the numbers as from general knowledge, in no source. -/
def tablesRef : Tables where
  e := #v[32,  1,  2,  3,  4,  5,
           4,  5,  6,  7,  8,  9,
           8,  9, 10, 11, 12, 13,
          12, 13, 14, 15, 16, 17,
          16, 17, 18, 19, 20, 21,
          20, 21, 22, 23, 24, 25,
          24, 25, 26, 27, 28, 29,
          28, 29, 30, 31, 32,  1]
  p := #v[16,  7, 20, 21, 29, 12, 28, 17,
           1, 15, 23, 26,  5, 18, 31, 10,
           2,  8, 24, 14, 32, 27,  3,  9,
          19, 13, 30,  6, 22, 11,  4, 25]
  sbox := #v[#v[14,  4, 13,  1,  2, 15, 11,  8,  3, 10,  6, 12,  5,  9,  0,  7],
             #v[ 0, 15,  7,  4, 14,  2, 13,  1, 10,  6, 12, 11,  9,  5,  3,  8],
             #v[ 4,  1, 14,  8, 13,  6,  2, 11, 15, 12,  9,  7,  3, 10,  5,  0],
             #v[15, 12,  8,  2,  4,  9,  1,  7,  5, 11,  3, 14, 10,  0,  6, 13]]

/-- `TABLES_TOY` (R119): the spec's own, for testing only, by the formulas of the rule. -/
def tablesToy : Tables where
  e := Vector.ofFn fun i : Fin 48 => BitVec.ofNat 6 (i.val % 32 + 1)
  p := Vector.ofFn fun i : Fin 32 => BitVec.ofNat 6 (32 - i.val)
  sbox := Vector.ofFn fun r : Fin 4 => Vector.ofFn fun c : Fin 16 => BitVec.ofNat 4 ((c.val + 4 * r.val + 1) % 16)

/-- What an implementation built in as its tables: the open parameter of 00_scope.md R9 (93_implementation_defined.md U8).
DESIGN CHOICE (log 1), safe: uninterpreted, so no proof can see an entry. -/
opaque Config.tablesGiven : Tables

/-- The `TABLES` of this core. "The hardware cannot hold an ill-formed `TABLES`" (R116), so a well-formed parameter is
taken as it is, and the spec's own concrete value `TABLES_REF` (R9) stands where the parameter is not well-formed.
Every well-formed table set is the value of this constant for some parameter (log 1). -/
def Config.tables : Tables := if Config.tablesGiven.WF then Config.tablesGiven else tablesRef

/-- Free value (log 4): what `L` holds after an `ENCODE` ("left unspecified afterwards", 44_driver.md R176). -/
opaque Config.freeL : Nat → Half

/-- Free value (log 4): what `R` holds after an `ENCODE`. -/
opaque Config.freeR : Nat → Half

/-- Free value (log 4): what `RND` holds after an `ENCODE`. -/
opaque Config.freeRnd : Nat → BitVec 4

/-- Free value (log 4): what `BLK` holds after an `ENCODE`. -/
opaque Config.freeBlk : Nat → Word

/-- Free value (log 5): what the sequencer reads as `SK` where no key is loaded, in states that no run reaches
("While `KEYV = 0` their content is unspecified", 10_state.md R22). -/
opaque Config.freeSubkeys : Nat → SubkeyFile

end Sys2Proof
end

