-- ==== Sys2Proof/Machine/State.lean ====
section
/-! DEFINITION. The state of one core as plain data, its reset value, and the reasons a step could stop. -/

namespace Sys2Proof.Machine

/-- The values of `PHASE` (10_state.md R24). -/
inductive Phase where
  /-- no `ENCODE` in progress -/
  | idle
  /-- the source's `Initial` -/
  | initial
  /-- the source's `Round[RND]` -/
  | round
  /-- the source's `Final` -/
  | final
  deriving DecidableEq, Repr

/-- The lifecycle, in the glossary's words "**Keyed / Empty**: the two values of the lifecycle, `KEYV = 1` /
`KEYV = 0`" (00_scope.md), with the subkey file, which has a value exactly while `KEYV = 1`: "A model should give `SK`
no value while `KEYV = 0` ..., not zero" (10_state.md R21, R22). DEDUCED (log 2), safe. -/
inductive Lifecycle where
  /-- `KEYV = 0`: no cipher instance, `SK` has no value -/
  | empty
  /-- `KEYV = 1`: a cipher instance with the subkeys `SK[0..15]` -/
  | keyed (sk : SubkeyFile)
  deriving DecidableEq, Repr

/-- `rsp_err` and `rsp_data` of one response (10_state.md R28). -/
structure Response where
  err  : BitVec 4
  data : Word
  deriving DecidableEq, Repr

/-- The error kinds of 60_exceptions.md R215, hardware and adapter "in the same space only so that a model can have one
error type"; reserved codes are absent (93_implementation_defined.md U9). -/
inductive ErrCode where
  /-- `ERR_ILLEGAL`, R216 -/
  | illegal
  /-- `ERR_INDEX`, R217 -/
  | index
  /-- `ERR_NOKEY`, R218 -/
  | noKey
  /-- `ERR_KEYLOCKED`, R219 -/
  | keyLocked
  /-- `InvalidLength`, R222: the host adapter's -/
  | invalidLength
  /-- `InvalidCharacter`, R222: the host adapter's -/
  | invalidCharacter
  deriving DecidableEq, Repr

/-- What the host does to the core (70_reset_and_hazards.md R247: "a model has two events, `command` ... and `reset`").
DESIGN CHOICE (log 7). -/
inductive HostEvent where
  /-- present a command on the command channel (10_state.md R27) -/
  | command (c : Command)
  /-- hold `rst = 1` at a rising edge (70_reset_and_hazards.md R245) -/
  | reset
  deriving DecidableEq, Repr

/-- The state of one core: 10_state.md R20, then the response channel, then the model's own two fields. -/
structure State where
  /-- `KEYV` and `SK[0..15]` (R21, R22) -/
  inst  : Lifecycle
  /-- `PHASE` (R24) -/
  phase : Phase
  /-- `RND` (R24) -/
  rnd   : BitVec 4
  /-- `L` (R23) -/
  l     : Half
  /-- `R` (R23) -/
  r     : Half
  /-- `BLK` (R23) -/
  blk   : Word
  /-- `rsp_valid`, `rsp_err`, `rsp_data` (R28): `none` is `rsp_valid = 0` (log 8) -/
  rsp   : Option Response
  /-- the model's own: what the host does next, oldest first (log 7) -/
  host  : List HostEvent
  /-- the model's own: how many free values were drawn (log 4) -/
  free  : Nat
  deriving DecidableEq, Repr

/-- The machine after reset (70_reset_and_hazards.md R246): `KEYV = 0`, `SK` without a value, `PHASE = IDLE`,
`rsp_valid = 0`. `RND`, `L`, `R`, `BLK` are "unspecified" there: DESIGN CHOICE 0 (log 3), unsafe. `free`: DESIGN CHOICE 0
(log 4). The host has nothing pending (log 7). -/
def State.reset : State where
  inst := .empty
  phase := .idle
  rnd := 0
  l := 0
  r := 0
  blk := 0
  rsp := none
  host := []
  free := 0

/-- Reasons to stop with a fault. There are none, and that is the spec's: "A model must not introduce a stuck state for
any command" (70_reset_and_hazards.md R253); every error is a response and the machine goes on (60_exceptions.md R221). -/
inductive Fault where
  deriving DecidableEq, Repr

/-- Reasons to refuse. -/
inductive Refusal where
  /-- Raised by an arm of `exec` for an instruction that has no meaning yet (safe); every instruction has one, so
  nothing raises it. -/
  | notModelled (mnemonic : String)
  deriving DecidableEq, Repr

/-- The outcome of a command or of a step of this machine. -/
abbrev Result := Host.Outcome State Fault Refusal

end Sys2Proof.Machine
end

