-- ==== Sys2Proof/Machine/Flags.lean ====
section
/-! DEFINITION. The one flag `KEYV` and the status word; there are no condition codes (10_state.md R21). -/

namespace Sys2Proof.Machine

/-- `KEYV` (10_state.md R21): 1 exactly while a cipher instance exists. -/
def State.keyv (s : State) : Bool :=
  match s.inst with
  | .empty => false
  | .keyed _ => true

/-- `cmd_ready`: "1 exactly when no command is in flight" (10_state.md R27); only an `ENCODE` can be, and then `PHASE` is
not `IDLE` (log 6). -/
def State.cmdReady (s : State) : Bool := s.phase == .idle

/-- `VERSION`, "hardwired `0x10`" (10_state.md R26). -/
def version : BitVec 8 := 0x10

/-- The status word (10_state.md R26): `KEYV` in bit 0, `VERSION` in bits 15:8, every other bit 0. -/
def statusWord (s : State) : Word := (version.setWidth 64 <<< 8) ||| (BitVec.ofBool s.keyv).setWidth 64

end Sys2Proof.Machine
end

