-- ==== Sys2Proof/Machine/Operands.lean ====
section
/-! DEFINITION. Blocks: bit order, integer conversion, operand and result assembly, bit-selection. -/

namespace Sys2Proof.Machine

/-- `bit(W, v, i)`: the bit at block index `i`, "index 0 = most significant bit" (00_scope.md R11); `v[W-1-i]` (R12). -/
def blockBit {W : Nat} (v : BitVec W) (i : Nat) : Bool := v.getMsbD i

/-- `setbit(W, v, i, c) = (v and not 2^(W-1-i)) or (c << (W-1-i))` (00_scope.md R12). -/
def setBlockBit {W : Nat} (v : BitVec W) (i : Nat) (c : Bool) : BitVec W :=
  (v &&& ~~~(1#W <<< (W - 1 - i))) ||| ((BitVec.ofBool c).setWidth W <<< (W - 1 - i))

/-- The `n`-bit block whose bit at block index `i` is `f i`, for `i` in `0..n-1`. -/
def blockOfBits : (n : Nat) → (Nat → Bool) → BitVec n
  | 0, _ => 0#0
  | n + 1, f => (blockOfBits n f).concat (f n)

/-- `block_of_int(W, n) = n mod 2^W` (40_bitblock.md R91). -/
def blockOfInt (W n : Nat) : BitVec W := BitVec.ofNat W n

/-- `int_of_block(W, v) = v` (R92). -/
def intOfBlock {W : Nat} (v : BitVec W) : Nat := v.toNat

/-- A block operand of width `W`: "the low `W'` bits" of the operand word, upper bits ignored (30_encoding.md R68). -/
def operand (W : Nat) (x : Word) : BitVec W := x.setWidth W

/-- A result of width `W` on `rsp_data`: "its integer value ... in the low `W'` bits, zeros above" (R69). -/
def result {W : Nat} (v : BitVec W) : Word := v.setWidth 64

/-- `select(T, n, m, s)` (41_tables.md R111): bit `i` of the result is bit `T[i] - 1` of the source. -/
def select {n m : Nat} (T : Vector (BitVec 6) n) (s : BitVec m) : BitVec n :=
  blockOfBits n fun i => if h : i < n then blockBit s (T[i].toNat - 1) else false

end Sys2Proof.Machine
end

