-- ==== Sys2Proof/Machine/Ops.lean ====
section
/-! DEFINITION. The shared operations: answering a command, raising an error, reset, the subkey file, the index check. -/

namespace Sys2Proof.Machine

/-- The codes of 60_exceptions.md R215. -/
def ErrCode.number : ErrCode → BitVec 4
  | .illegal => 1
  | .index => 2
  | .noKey => 3
  | .keyLocked => 4
  | .invalidLength => 8
  | .invalidCharacter => 9

/-- Put one response on the response channel (10_state.md R28); no state register changes. -/
def State.answer (s : State) (x : Response) : State := { s with rsp := some x }

/-- `respond(v)`: "end the command with response `(rsp_err = 0, rsp_data = zext_64(v))`" (00_scope.md 5.3). -/
def respond (v : Word) (s : State) : Result := .next (s.answer ⟨0, v⟩)

/-- `raise ERR_X`, the machine's one way to take an error (60_exceptions.md R221): the response is
`(rsp_err = code, rsp_data = 0)` and "no state register changes". Nothing is saved, no mode changes, control goes nowhere
(R226), and there is nothing to return from (R227). -/
def raise (e : ErrCode) (s : State) : Result := .next (s.answer ⟨e.number, 0⟩)

/-- The index check of 20_memory.md R47: `raise ERR_INDEX` unless `idx` is below `bound`. -/
def withIndex (idx bound : Nat) (s : State) (k : idx < bound → Result) : Result :=
  if h : idx < bound then k h else raise .index s

/-- Read `SK[rnd]` (20_memory.md R46); the four bits of `RND` are always in range. -/
def readSubkey (sk : SubkeyFile) (rnd : BitVec 4) : Subkey := sk[rnd.toNat]'rnd.isLt

/-- The subkey file as the sequencer finds it. While `KEYV = 0` its content is unspecified: a free value (log 5), safe. -/
def State.subkeys (s : State) : SubkeyFile :=
  match s.inst with
  | .keyed sk => sk
  | .empty => Config.freeSubkeys s.free

/-- What a reset does (70_reset_and_hazards.md R245 to R247): the reset state, "whatever it was doing", and no response.
What the host does afterwards and the count of free values are the model's own and stay (log 14). -/
def State.applyReset (s : State) : State := { State.reset with host := s.host, free := s.free }

end Sys2Proof.Machine
end

