-- ==== Sys2Proof/Machine/BitBlock.lean ====
section
/-! DEFINITION. The BitBlock family (40_bitblock.md): `BBINT`, `BBGET`, `BBSET`, `BBXOR` at widths 32, 48, 64. -/

namespace Sys2Proof.Machine

/-- `BBINT.W a` (R93): construct a W-bit block from the integer `a` and return its integer value. -/
def bbint (W : Nat) (a : Word) (s : State) : Result :=
  respond (BitVec.ofNat 64 (intOfBlock (blockOfInt W a.toNat))) s

/-- `BBGET.W #i, a` (R94): the bit at block index `i`, in `rsp_data[0]`. -/
def bbget (W idx : Nat) (a : Word) (s : State) : Result :=
  withIndex idx W s fun _ => respond (result (BitVec.ofBool (blockBit (operand W a) idx))) s

/-- `BBSET.W #i, #c, a` (R95): the block with the bit at block index `i` set to `c`. -/
def bbset (W idx : Nat) (val : Bool) (a : Word) (s : State) : Result :=
  withIndex idx W s fun _ => respond (result (setBlockBit (operand W a) idx val)) s

/-- `BBXOR.W a, b` (R96): one `WSEL` types both operands (30_encoding.md R64). -/
def bbxor (W : Nat) (a b : Word) (s : State) : Result := respond (result (operand W a ^^^ operand W b)) s

/-- `BBINT.32` (R93) -/
def execBbint32 (a : Word) (s : State) : Result := bbint 32 a s
/-- `BBINT.48` (R93) -/
def execBbint48 (a : Word) (s : State) : Result := bbint 48 a s
/-- `BBINT.64` (R93) -/
def execBbint64 (a : Word) (s : State) : Result := bbint 64 a s

/-- `BBGET.32` (R94) -/
def execBbget32 (idx : Nat) (a : Word) (s : State) : Result := bbget 32 idx a s
/-- `BBGET.48` (R94) -/
def execBbget48 (idx : Nat) (a : Word) (s : State) : Result := bbget 48 idx a s
/-- `BBGET.64` (R94) -/
def execBbget64 (idx : Nat) (a : Word) (s : State) : Result := bbget 64 idx a s

/-- `BBSET.32` (R95) -/
def execBbset32 (idx : Nat) (val : Bool) (a : Word) (s : State) : Result := bbset 32 idx val a s
/-- `BBSET.48` (R95) -/
def execBbset48 (idx : Nat) (val : Bool) (a : Word) (s : State) : Result := bbset 48 idx val a s
/-- `BBSET.64` (R95) -/
def execBbset64 (idx : Nat) (val : Bool) (a : Word) (s : State) : Result := bbset 64 idx val a s

/-- `BBXOR.32` (R96) -/
def execBbxor32 (a b : Word) (s : State) : Result := bbxor 32 a b s
/-- `BBXOR.48` (R96) -/
def execBbxor48 (a b : Word) (s : State) : Result := bbxor 48 a b s
/-- `BBXOR.64` (R96) -/
def execBbxor64 (a b : Word) (s : State) : Result := bbxor 64 a b s

end Sys2Proof.Machine
end

