-- ==== Sys2Proof/Machine/KeySchedule.lean ====
section
/-! DEFINITION. The key schedule (42_key_schedule.md): `LOADKEY`, `RDSUBKEY`. -/

namespace Sys2Proof.Machine

/-- `subkey(K, r) = (K >> r) and MASK48` (R130): a logical shift, then the low 48 bits. -/
def subkey (K : Word) (r : Nat) : Subkey := (K >>> r).setWidth 48

/-- The sixteen subkeys of a key, `r` in 0..15 (R130; 90_conflicts.md C2). -/
def schedule (K : Word) : SubkeyFile := Vector.ofFn fun r : Fin 16 => subkey K r.val

/-- `LOADKEY a` (R131): `ERR_KEYLOCKED` while `KEYV = 1`; else all sixteen subkeys in one atomic step and `KEYV <- 1`. The key
itself is not kept (10_state.md R32). -/
def execLoadkey (a : Word) (s : State) : Result :=
  match s.inst with
  | .keyed _ => raise .keyLocked s
  | .empty => respond 0 { s with inst := .keyed (schedule a) }

/-- `RDSUBKEY #r` (R132): the index check first, then the key check (60_exceptions.md R224). -/
def execRdsubkey (idx : Nat) (s : State) : Result :=
  withIndex idx 16 s fun h =>
    match s.inst with
    | .empty => raise .noKey s
    | .keyed sk => respond (result sk[idx]) s

end Sys2Proof.Machine
end

