-- ==== Sys2Proof/Machine/TableRead.lean ====
section
/-! DEFINITION. `RDTAB` (41_tables.md R120) and the S-box read (20_memory.md R45). -/

namespace Sys2Proof.Machine

/-- `SBOX[row mod 4][col mod 16]`: "Row/column indices must be taken modulo their table dimension" (20_memory.md R45). -/
def readSbox (T : Tables) (row col : Nat) : Nibble :=
  (T.sbox[row % 4]'(Nat.mod_lt _ (by decide)))[col % 16]'(Nat.mod_lt _ (by decide))

/-- `RDTAB.E #i`: the stored 1-based entry (R120; 20_memory.md R43). -/
def rdtabE (T : Tables) (idx : Nat) (s : State) : Result := withIndex idx 48 s fun h => respond (result T.e[idx]) s

/-- `RDTAB.P #i` (R120; 20_memory.md R44). -/
def rdtabP (T : Tables) (idx : Nat) (s : State) : Result := withIndex idx 32 s fun h => respond (result T.p[idx]) s

/-- `RDTAB.S #i`: "`row = IDX[5:4]`, `col = IDX[3:0]`" (30_encoding.md R75); every `IDX` is legal (R120). -/
def rdtabS (T : Tables) (idx : Nat) (s : State) : Result := respond (result (readSbox T (idx / 16) (idx % 16))) s

/-- `RDTAB.E` (R120) -/
def execRdtabE (idx : Nat) (s : State) : Result := rdtabE Config.tables idx s
/-- `RDTAB.P` (R120) -/
def execRdtabP (idx : Nat) (s : State) : Result := rdtabP Config.tables idx s
/-- `RDTAB.S` (R120) -/
def execRdtabS (idx : Nat) (s : State) : Result := rdtabS Config.tables idx s

end Sys2Proof.Machine
end

