-- ==== Sys2Proof/Machine/RoundFunction.lean ====
section
/-! DEFINITION. The round function (43_round_function.md): `EXPAND`, `SUBST`, `PERMUTE`, `FEISTEL`. Every function takes
`TABLES` as an argument (10_state.md R29); the commands use the core's own. -/

namespace Sys2Proof.Machine

/-- Expand (R146): `select(E, 48, 32, r)`. -/
def expandHalf (T : Tables) (r : Half) : BitVec 48 := select T.e r

/-- Mix (R147): "bitwise XOR the expanded 48-bit value with the round subkey". -/
def mix (x : BitVec 48) (k : Subkey) : BitVec 48 := x ^^^ k

/-- Chunk `j` of a 48-bit value: block indices `6j .. 6j+5` (R148). -/
def chunkOf (y : BitVec 48) (j : Nat) : Chunk := blockOfBits 6 fun k => blockBit y (6 * j + k)

/-- `row = 2*c0 + c5` (41_tables.md R112). -/
def sboxRow (c : Chunk) : Nat := 2 * (blockBit c 0).toNat + (blockBit c 5).toNat

/-- `col = 8*c1 + 4*c2 + 2*c3 + c4` (41_tables.md R112). -/
def sboxCol (c : Chunk) : Nat :=
  8 * (blockBit c 1).toNat + 4 * (blockBit c 2).toNat + 2 * (blockBit c 3).toNat + (blockBit c 4).toNat

/-- `sbox_lookup(c) = SBOX[row(c) mod 4][col(c) mod 16]` (41_tables.md R112): one S-box for every chunk. -/
def sboxLookup (T : Tables) (c : Chunk) : Nibble := readSbox T (sboxRow c) (sboxCol c)

/-- Substitute (R148): slot `j` of the result, block indices `4j .. 4j+3`, is the S-box value of chunk `j`, most
significant bit first. -/
def substitute (T : Tables) (y : BitVec 48) : Half :=
  blockOfBits 32 fun p => blockBit (sboxLookup T (chunkOf y (p / 4))) (p % 4)

/-- Permute (R149): `select(P, 32, 32, s)`. -/
def permuteHalf (T : Tables) (x : Half) : Half := select T.p x

/-- `feistel(r, k) = permute(substitute(mix(expand(r), k)))` (R150). -/
def feistel (T : Tables) (r : Half) (k : Subkey) : Half := permuteHalf T (substitute T (mix (expandHalf T r) k))

/-- `EXPAND a` (R151) -/
def execExpand (a : Word) (s : State) : Result := respond (result (expandHalf Config.tables (operand 32 a))) s

/-- `SUBST a` (R152) -/
def execSubst (a : Word) (s : State) : Result := respond (result (substitute Config.tables (operand 48 a))) s

/-- `PERMUTE a` (R153) -/
def execPermute (a : Word) (s : State) : Result := respond (result (permuteHalf Config.tables (operand 32 a))) s

/-- `FEISTEL a, b` (R154): "The subkey is the operand `b`, never `SK[...]`". -/
def execFeistel (a b : Word) (s : State) : Result :=
  respond (result (feistel Config.tables (operand 32 a) (operand 48 b))) s

end Sys2Proof.Machine
end

