-- ==== Sys2Proof/Machine/Driver.lean ====
section
/-! DEFINITION. The block cipher driver (44_driver.md): the function of R175, the sequencer of R177, `ENCODE`. -/

namespace Sys2Proof.Machine

/-- `IP(b) = b` (R171): "preserve this as a literal no-op". -/
def initialPermutation (b : Word) : Word := b

/-- `FP(b) = b` (R171). -/
def finalPermutation (b : Word) : Word := b

/-- The left half: `b[63:32]` (R172). -/
def leftHalf (b : Word) : Half := b.extractLsb' 32 32

/-- The right half: `b[31:0]` (R172). -/
def rightHalf (b : Word) : Half := b.extractLsb' 0 32

/-- One round (R173): `(L, R) <- (R, L xor feistel(R, k))`, simultaneous. -/
def roundStep (T : Tables) (k : Subkey) : Half × Half → Half × Half
  | (l, r) => (r, l ^^^ feistel T r k)

/-- `(L_r, R_r)` after `r` rounds of the block `pt` (R172, R173). -/
def halvesAfter (T : Tables) (sk : SubkeyFile) (pt : Word) : Nat → Half × Half
  | 0 => (leftHalf (initialPermutation pt), rightHalf (initialPermutation pt))
  | r + 1 => roundStep T (readSubkey sk (BitVec.ofNat 4 r)) (halvesAfter T sk pt r)

/-- Final (R174): `FP(R_16 ++ L_16)`, the halves swapped. -/
def recombine : Half × Half → Word
  | (l, r) => finalPermutation (r ++ l)

/-- `encode(sk, pt)` (R175). -/
def encodeBlock (T : Tables) (sk : SubkeyFile) (pt : Word) : Word := recombine (halvesAfter T sk pt 16)

/-- Acceptance of `ENCODE` (R177): `BLK <- cmd.a ; PHASE <- INITIAL`. No response is owed yet (10_state.md R28). -/
def acceptEncode (pt : Word) (s : State) : State := { s with blk := pt, phase := .initial, rsp := none }

/-- The `INITIAL` transition (R177). -/
def seqInitial (s : State) : State :=
  { s with l := leftHalf (initialPermutation s.blk), r := rightHalf (initialPermutation s.blk),
           rnd := 0, phase := .round, rsp := none }

/-- The `ROUND` transition (R177): the round with `SK[RND]`, then `FINAL` after round 15, else the next round; "`RND + 1` is
never computed at `RND = 15`". -/
def seqRound (T : Tables) (s : State) : State :=
  let halves := roundStep T (readSubkey s.subkeys s.rnd) (s.l, s.r)
  let s' := { s with l := halves.1, r := halves.2, rsp := none }
  if s.rnd = 15 then { s' with phase := .final } else { s' with rnd := s.rnd + 1 }

/-- After an `ENCODE` the working registers are "left unspecified" (R176; 10_state.md R23): free values (log 4), safe. -/
def State.releaseRegisters (s : State) : State :=
  { s with l := Config.freeL s.free, r := Config.freeR s.free, rnd := Config.freeRnd s.free,
           blk := Config.freeBlk s.free, free := s.free + 1 }

/-- The `FINAL` transition (R177): `respond(FP(R ++ L)) ; PHASE <- IDLE`. -/
def seqFinal (s : State) : State :=
  { (s.answer ⟨0, recombine (s.l, s.r)⟩).releaseRegisters with phase := .idle }

/-- One transition of `PHASE` (R177). At `IDLE` there is none. -/
def seqStep (T : Tables) (s : State) : State :=
  match s.phase with
  | .idle => s
  | .initial => seqInitial s
  | .round => seqRound T s
  | .final => seqFinal s

/-- `n` transitions. -/
def seqRun (T : Tables) : Nat → State → State
  | 0, s => s
  | n + 1, s => seqRun T n (seqStep T s)

/-- `ENCODE a` with the tables `T` (R176): `ERR_NOKEY` "before any round begins"; else acceptance and the eighteen transitions
`INITIAL`, `ROUND` 0 to 15, `FINAL` (R177), the whole command atomically (20_memory.md R50; log 6). -/
def encodeWith (T : Tables) (a : Word) (s : State) : Result :=
  match s.inst with
  | .empty => raise .noKey s
  | .keyed _ => .next (seqRun T 18 (acceptEncode a s))

/-- `ENCODE a` (R176) -/
def execEncode (a : Word) (s : State) : Result := encodeWith Config.tables a s

end Sys2Proof.Machine
end

