-- ==== Sys2Proof/Machine/System.lean ====
section
/-! DEFINITION. The system commands (45_system_and_host.md): `STATUS`, `DISCARD`. -/

namespace Sys2Proof.Machine

/-- `STATUS` (R190): `respond((0x10 << 8) or KEYV)`. -/
def execStatus (s : State) : Result := respond (statusWord s) s

/-- `DISCARD` (R192): `KEYV <- 0`, and `SK` has no value any more (10_state.md R22); not an error with `KEYV = 0`. -/
def execDiscard (s : State) : Result := respond 0 { s with inst := .empty }

end Sys2Proof.Machine
end

