-- ==== Sys2Proof/Machine/Dispatch.lean ====
section
/-! DEFINITION. One arm per command. -/

namespace Sys2Proof.Machine

def exec (i : Instr) (s : State) : Host.Outcome State Fault Refusal :=
  match i with
  | .status => Sys2Proof.Machine.execStatus s
  | .loadkey a => Sys2Proof.Machine.execLoadkey a s
  | .encode a => Sys2Proof.Machine.execEncode a s
  | .feistel a b => Sys2Proof.Machine.execFeistel a b s
  | .expand a => Sys2Proof.Machine.execExpand a s
  | .subst a => Sys2Proof.Machine.execSubst a s
  | .permute a => Sys2Proof.Machine.execPermute a s
  | .rdsubkey idx => Sys2Proof.Machine.execRdsubkey idx s
  | .bbint32 a => Sys2Proof.Machine.execBbint32 a s
  | .bbint48 a => Sys2Proof.Machine.execBbint48 a s
  | .bbint64 a => Sys2Proof.Machine.execBbint64 a s
  | .bbget32 idx a => Sys2Proof.Machine.execBbget32 idx a s
  | .bbget48 idx a => Sys2Proof.Machine.execBbget48 idx a s
  | .bbget64 idx a => Sys2Proof.Machine.execBbget64 idx a s
  | .bbset32 idx val a => Sys2Proof.Machine.execBbset32 idx val a s
  | .bbset48 idx val a => Sys2Proof.Machine.execBbset48 idx val a s
  | .bbset64 idx val a => Sys2Proof.Machine.execBbset64 idx val a s
  | .bbxor32 a b => Sys2Proof.Machine.execBbxor32 a b s
  | .bbxor48 a b => Sys2Proof.Machine.execBbxor48 a b s
  | .bbxor64 a b => Sys2Proof.Machine.execBbxor64 a b s
  | .discard => Sys2Proof.Machine.execDiscard s
  | .rdtabE idx => Sys2Proof.Machine.execRdtabE idx s
  | .rdtabP idx => Sys2Proof.Machine.execRdtabP idx s
  | .rdtabS idx => Sys2Proof.Machine.execRdtabS idx s

end Sys2Proof.Machine
end

