-- ==== Sys2Proof/Machine/Transact.lean ====
section
/-! DEFINITION. One event of the machine: a reset, a command with its response, a transition of an `ENCODE` in flight, or an
edge at which nothing is presented. -/

namespace Sys2Proof.Machine

/-- The `command` event (70_reset_and_hazards.md R247): decode, then execute; an illegal word "raises `ERR_ILLEGAL` ... and
changes no state" (30_encoding.md R71). -/
def runCommand (c : Command) (s : State) : Result :=
  match decode c with
  | .ok i => exec i s
  | .error _ => raise .illegal s

/-- One event. A reset comes before everything (70_reset_and_hazards.md R245). While an `ENCODE` is in flight no command is
accepted and the sequencer moves on (R250; 44_driver.md R177). Else the oldest command is accepted and executed; where
none is presented the response channel falls back to `rsp_valid = 0` (10_state.md R28) and nothing else changes. -/
def tick (s : State) : Result :=
  match s.host, s.phase with
  | .reset :: rest, _ => .next { s with host := rest }.applyReset
  | .command c :: rest, .idle => runCommand c { s with host := rest }
  | [], .idle => .next { s with rsp := none }
  | _, _ => .next (seqStep Config.tables s)

/-- `s` with a command presented next and the core ready to accept it. -/
def State.presentCommand (s : State) (c : Command) : State := { s with host := .command c :: s.host, phase := .idle }

end Sys2Proof.Machine
end

