-- ==== Sys2Proof/Machine/Step.lean ====
section
/-! DEFINITION. The step, and where it finds its next command. -/

namespace Sys2Proof.Machine

/-- One step is one event of the machine (log 6, log 7). -/
def step : State → Host.Outcome State Fault Refusal := tick

/-- `s` with the command of those bits presented next: the machine fetches nothing (20_memory.md R41, R53); a program is
the sequence of commands a host presents, loaded from outside the machine (log 7). -/
def State.withFetchWord (s : State) (nbits w : Nat) : State := s.presentCommand (Command.ofTableWord nbits w)

end Sys2Proof.Machine
end

