-- ==== Sys2Proof/Machine/Assembler.lean ====
section
/-! DEFINITION. The assembler lines of 30_encoding.md R73 and R74, as data (log 20). -/

namespace Sys2Proof.Machine

/-- "a mnemonic, an optional `.W` or `.T` suffix, immediates prefixed with `#` ..., then the operand words in the order
`a`, `b`" (R73). -/
structure AsmLine where
  mnemonic   : List Char
  immediates : List Nat
  operands   : List Word
  deriving DecidableEq, Repr

/-- Why a line is no command line. -/
inductive AsmError where
  /-- no mnemonic of R73 or R74 with that many immediates -/
  | unknownForm
  /-- an immediate outside the range R73 gives it -/
  | badImmediate
  /-- more operand words than the form takes -/
  | tooManyOperands
  deriving DecidableEq, Repr

/-- An index immediate that fits `IDX` (R65). -/
def asmIndex (idx : Nat) (i : Instr) : Except AsmError Instr := if idx < 64 then .ok i else .error .badImmediate

/-- `#i, #c` of `BBSET`, "c in {0, 1}" (R73). -/
def asmSet (idx c : Nat) (mk : Bool → Instr) : Except AsmError Instr :=
  if c < 2 then asmIndex idx (mk (c == 1)) else .error .badImmediate

/-- The forms of R73 and the pseudo-commands of R74, with the number of operand words each takes. -/
def asmForm (mnemonic : String) (immediates : List Nat) (a b : Word) : Except AsmError (Nat × Instr) :=
  match immediates with
  | [] =>
    match mnemonic with
    | "STATUS" => .ok (0, .status)
    | "NOP" => .ok (0, .nop)
    | "LOADKEY" => .ok (1, .loadkey a)
    | "NEW" => .ok (1, .new a)
    | "ENCODE" => .ok (1, .encode a)
    | "FEISTEL" => .ok (2, .feistel a b)
    | "EXPAND" => .ok (1, .expand a)
    | "SUBST" => .ok (1, .subst a)
    | "PERMUTE" => .ok (1, .permute a)
    | "BBINT.32" => .ok (1, .bbint32 a)
    | "BBINT.48" => .ok (1, .bbint48 a)
    | "BBINT.64" => .ok (1, .bbint64 a)
    | "BBXOR.32" => .ok (2, .bbxor32 a b)
    | "BBXOR.48" => .ok (2, .bbxor48 a b)
    | "MIX" => .ok (2, .mix a b)
    | "BBXOR.64" => .ok (2, .bbxor64 a b)
    | "DISCARD" => .ok (0, .discard)
    | _ => .error .unknownForm
  | [i] =>
    match mnemonic with
    | "RDSUBKEY" => (asmIndex i (.rdsubkey i)).map (0, ·)
    | "BBGET.32" => (asmIndex i (.bbget32 i a)).map (1, ·)
    | "BBGET.48" => (asmIndex i (.bbget48 i a)).map (1, ·)
    | "BBGET.64" => (asmIndex i (.bbget64 i a)).map (1, ·)
    | "RDTAB.E" => (asmIndex i (.rdtabE i)).map (0, ·)
    | "RDTAB.P" => (asmIndex i (.rdtabP i)).map (0, ·)
    | _ => .error .unknownForm
  | [i, j] =>
    match mnemonic with
    | "BBSET.32" => (asmSet i j (.bbset32 i · a)).map (1, ·)
    | "BBSET.48" => (asmSet i j (.bbset48 i · a)).map (1, ·)
    | "BBSET.64" => (asmSet i j (.bbset64 i · a)).map (1, ·)
    | "RDTAB.S" => if i < 4 ∧ j < 16 then .ok (0, .rdtabS (16 * i + j)) else .error .badImmediate
    | _ => .error .unknownForm
  | _ => .error .unknownForm

/-- The command of a line: "Mnemonics are upper case and not case-sensitive"; "an omitted operand word is sent as 0" (R73). -/
def assemble (line : AsmLine) : Except AsmError Command :=
  match asmForm (String.ofList (line.mnemonic.map Char.toUpper)) line.immediates
      (line.operands[0]?.getD 0) (line.operands[1]?.getD 0) with
  | .error e => .error e
  | .ok (n, i) => if line.operands.length ≤ n then .ok (encode i) else .error .tooManyOperands

/-- The line of an instruction (R73). -/
def disassemble (i : Instr) : AsmLine :=
  match i with
  | .status | .discard => ⟨i.mnemonic.toList, [], []⟩
  | .loadkey a | .encode a | .expand a | .subst a | .permute a | .bbint32 a | .bbint48 a | .bbint64 a =>
    ⟨i.mnemonic.toList, [], [a]⟩
  | .feistel a b | .bbxor32 a b | .bbxor48 a b | .bbxor64 a b => ⟨i.mnemonic.toList, [], [a, b]⟩
  | .rdsubkey idx | .rdtabE idx | .rdtabP idx => ⟨i.mnemonic.toList, [idx], []⟩
  | .rdtabS idx => ⟨i.mnemonic.toList, [idx / 16, idx % 16], []⟩
  | .bbget32 idx a | .bbget48 idx a | .bbget64 idx a => ⟨i.mnemonic.toList, [idx], [a]⟩
  | .bbset32 idx val a | .bbset48 idx val a | .bbset64 idx val a => ⟨i.mnemonic.toList, [idx, val.toNat], [a]⟩

end Sys2Proof.Machine
end

