-- ==== Sys2Proof/Machine/Cores.lean ====
section
/-! DEFINITION. Several cores: "the product of N independent single-core machines with one common `TABLES`" (20_memory.md R54). -/

namespace Sys2Proof.Machine

/-- Core `k` takes one step; the others do nothing. A number that is no core's changes nothing. -/
def stepCore (k : Nat) (cores : List State) : Host.Outcome (List State) Fault Refusal :=
  match cores[k]? with
  | none => .next cores
  | some s =>
    match step s with
    | .next t => .next (cores.set k t)
    | .fault f => .fault f
    | .refused x => .refused x

end Sys2Proof.Machine
end

