-- ==== Sys2Proof/Machine/HostAdapter.lean ====
section
/-! DEFINITION. The host adapter (45_system_and_host.md R194 to R197): the string side of the source's interface, on the host's
side of the ports (00_scope.md R7). A bit string is a list of characters (log 12). -/

namespace Sys2Proof.Machine

/-- "Only the two characters `'0'` (U+0030) and `'1'` (U+0031) are accepted" (R194). -/
def isBitChar (c : Char) : Bool := c == '0' || c == '1'

/-- `parse_bits(W, s)` (R194): length first, then characters (60_exceptions.md R224); "character i is block index i". -/
def parseBits (W : Nat) (s : List Char) : Except ErrCode (BitVec W) :=
  if s.length ≠ W then .error .invalidLength
  else if s.all isBitChar then .ok (blockOfBits W fun i => s[i]? == some '1')
  else .error .invalidCharacter

/-- `render_bits(W, v)` (R195): "most-significant bit first", leading zeros always written. -/
def renderBits {W : Nat} (v : BitVec W) : List Char := (List.range W).map fun i => if blockBit v i then '1' else '0'

/-- An argument of `new` or `encode`: an unsigned integer or a bit string (R196, R197). -/
inductive HostValue where
  | int (n : Nat)
  | bits (s : List Char)
  deriving DecidableEq, Repr

/-- The category `InvalidKeyFormat`: the two string errors when `new` raises them, "a wrapper around the two kinds, not ... a
third kind" (60_exceptions.md R223; 90_conflicts.md C3). -/
def isInvalidKeyFormat (e : ErrCode) : Bool := e == .invalidLength || e == .invalidCharacter

/-- How a call of the adapter ends, with the core's state afterwards. -/
inductive Call (α : Type) where
  /-- the string is malformed: "NO command is sent and the core is unchanged" (R196) -/
  | rejected (e : ErrCode) (s : State)
  /-- the core answered with an error code -/
  | failed (err : BitVec 4) (s : State)
  /-- the core answered with success -/
  | done (x : α) (s : State)
  /-- no response to this call: `cmd_ready = 0`, so nothing is sent and the core is unchanged (R198; log 19) -/
  | unanswered (s : State)
  deriving DecidableEq, Repr

/-- The 64-bit argument of `new` and `encode`: `trunc_64` of an integer, `parse_bits(64, ·)` of a string (R196, R197). -/
def hostWord : HostValue → Except ErrCode Word
  | .int n => .ok (blockOfInt 64 n)
  | .bits s => parseBits 64 s

/-- Send one command and read its response. The host must "present it only while `cmd_ready = 1`; sample the response in its one
valid cycle" (R198): while a command is in flight nothing is sent, and no response is taken; else the command is the next
thing the host does and one step runs it. -/
def sendCommand {α : Type} (c : Command) (onSuccess : Word → α) (s : State) : Call α :=
  if s.cmdReady then
    match step { s with host := .command c :: s.host } with
    | .next t =>
      match t.rsp with
      | some x => if x.err = 0 then .done (onSuccess x.data) t else .failed x.err t
      | none => .unanswered t
    | .fault _ => .unanswered s
    | .refused _ => .unanswered s
  else .unanswered s

/-- `host_new(key)` (R196; R191): `LOADKEY` of a valid key. -/
def hostNew (key : HostValue) (s : State) : Call Unit :=
  match hostWord key with
  | .error e => .rejected e s
  | .ok k => sendCommand (encode (.loadkey k)) (fun _ => ()) s

/-- `host_encode(plaintext)` (R197): the ciphertext "as both an integer and a canonical bit string". -/
def hostEncode (plaintext : HostValue) (s : State) : Call (Word × List Char) :=
  match hostWord plaintext with
  | .error e => .rejected e s
  | .ok pt => sendCommand (encode (.encode pt)) (fun ct => (ct, renderBits ct)) s

/-- Discarding the instance is `DISCARD` (R191). -/
def hostDiscard (s : State) : Call Unit := sendCommand (encode .discard) (fun _ => ()) s

end Sys2Proof.Machine
end

