-- ==== Sys2Proof/Safety.lean ====
section
/-! DEFINITION. What counts as a safe state and a safe run, in the terms the claims use. -/

namespace Sys2Proof

open Machine

/-- "From a successful `LOADKEY` with key `K` until the next reset or `DISCARD`, `SK[r] = subkey(K, r)` ... for every
`r`" (10_state.md R33): the loaded file is the schedule of some key. -/
def ScheduleOfSomeKey (s : State) : Prop :=
  ∀ sk, s.inst = .keyed sk → ∃ K : Word, ∀ r : Fin 16, sk[r].toNat = K.toNat / 2 ^ r.val % 2 ^ 48

/-- A response the hardware may give (60_exceptions.md R215, R221): a code of 0 to 4, and `rsp_data = 0` with every nonzero
code. -/
def ResponseLegal (s : State) : Prop :=
  ∀ x, s.rsp = some x → x.err.toNat ≤ 4 ∧ (x.err ≠ 0 → x.data = 0)

/-- Between commands `PHASE = IDLE` (10_state.md R24). -/
def BetweenCommands (s : State) : Prop := s.phase = .idle

/-- The invariant of the machine: no command in flight, the subkey file a schedule, the response legal. -/
structure Inv (s : State) : Prop where
  idle     : BetweenCommands s
  schedule : ScheduleOfSomeKey s
  response : ResponseLegal s

/-- The states a run from reset reaches, whatever the host does. -/
inductive Reachable : State → Prop where
  | start (events : List HostEvent) : Reachable { State.reset with host := events }
  | step {s t : State} : Reachable s → Machine.step s = .next t → Reachable t

/-- A run of `n` steps is safe when it neither faults nor refuses (70_reset_and_hazards.md R253). -/
def SafeRun (n : Nat) (s : State) : Prop := ∃ t, core.run n s = .next t

/-- The words 30_encoding.md R71 calls illegal, clause by clause; which fields a command uses is R63. -/
abbrev IllegalWord (w : BitVec 16) : Prop :=
  (cmdOp w = 0xE ∨ cmdOp w = 0xF) ∨
  cmdZero w ≠ 0 ∨
  (cmdOp w ∈ [0x8#4, 0x9#4, 0xA#4, 0xB#4] ∧ cmdWsel w = 0b11) ∨
  (cmdOp w = 0xD ∧ cmdWsel w = 0b11) ∨
  (cmdWsel w ≠ 0 ∧ cmdOp w ∉ [0x8#4, 0x9#4, 0xA#4, 0xB#4, 0xD#4]) ∨
  (cmdIdx w ≠ 0 ∧ cmdOp w ∉ [0x7#4, 0x9#4, 0xA#4, 0xD#4]) ∨
  (cmdVal w = true ∧ cmdOp w ≠ 0xA)

/-- "a legal command word whose `IDX` is out of range" (60_exceptions.md R217), command by command. -/
def IndexOutOfRange : Instr → Prop
  | .bbget32 i _ => 32 ≤ i
  | .bbget48 i _ => 48 ≤ i
  | .bbget64 i _ => 64 ≤ i
  | .bbset32 i _ _ => 32 ≤ i
  | .bbset48 i _ _ => 48 ≤ i
  | .bbset64 i _ _ => 64 ≤ i
  | .rdsubkey i => 16 ≤ i
  | .rdtabE i => 48 ≤ i
  | .rdtabP i => 32 ≤ i
  | .rdtabS _ => False
  | .status => False
  | .loadkey _ => False
  | .encode _ => False
  | .feistel _ _ => False
  | .expand _ => False
  | .subst _ => False
  | .permute _ => False
  | .bbint32 _ => False
  | .bbint48 _ => False
  | .bbint64 _ => False
  | .bbxor32 _ _ => False
  | .bbxor48 _ _ => False
  | .bbxor64 _ _ => False
  | .discard => False

/-- The commands that read the subkeys and so need a loaded key (60_exceptions.md R218), where the index check is passed. -/
def NeedsKey (i : Instr) : Prop := (∃ pt, i = .encode pt) ∨ ∃ n, n < 16 ∧ i = .rdsubkey n

end Sys2Proof
end

