-- ==== Sys2Proof/Certificates/Slice0/Obligations.lean ====
section
/-! DEFINITION. The statements for the provers, file by file of the spec. -/

open Sys2Proof Sys2Proof.Machine

/-! ## Encoding (30_encoding.md) -/

/-- No bit of an encoding is dropped: the decoder reads every well-formed instruction back from its command (R61, R76). -/
def Obligations.EncodingRoundTripsEveryWellFormedInstruction : Prop :=
  ∀ i : Instr, i.wellFormed = true → decode (encode i) = .ok i

/-- Each legal word has one meaning: whatever decodes is well-formed and is the word of its instruction (R72, R76). -/
def Obligations.DecodedWordIsTheWordOfItsInstruction : Prop :=
  ∀ (c : Command) (i : Instr), decode c = .ok i → i.wellFormed = true ∧ (encode i).word = c.word

/-- R76: the rows are disjoint, a word decodes to a row's command exactly when the row selects it, a word that selects no
row is illegal, there are 24 rows, and exactly 846 words are legal. -/
def Obligations.LegalWordsAreExactlyTheRowsOfTheTable : Prop :=
  (opcodeRows.Pairwise fun p q => ∀ w, ¬ (p.selects w = true ∧ q.selects w = true)) ∧
  (∀ c : Command, ∀ row ∈ opcodeRows,
    (row.selects c.word = true ↔ ∃ i, decode c = .ok i ∧ i.mnemonic = row.mnemonic)) ∧
  (∀ c : Command, (∀ row ∈ opcodeRows, row.selects c.word = false) ↔ ∃ e, decode c = .error e) ∧
  opcodeRows.length = 24 ∧
  ∃ words : List (BitVec 16), words.Nodup ∧ words.length = 846 ∧
    ∀ w, w ∈ words ↔ ∃ a b i, decode ⟨w, a, b⟩ = .ok i

/-- R71 (with R67, R70, R72, R216): a word is rejected exactly when a clause of R71 holds of it, and an illegal word that is
accepted is answered with `ERR_ILLEGAL` and changes no state. -/
def Obligations.IllegalWordIsAnsweredAndChangesNothing : Prop :=
  (∀ c : Command, IllegalWord c.word ↔ ∃ e, decode c = .error e) ∧
  ∀ (s : State) (c : Command) (rest : List HostEvent),
    s.phase = .idle → s.host = .command c :: rest → IllegalWord c.word →
    step s = .next { s with host := rest, rsp := some ⟨1, 0⟩ }

/-- R60: the operand words never influence which command is selected, nor whether the word is legal. -/
def Obligations.OperandWordsNeverSelectTheCommand : Prop :=
  ∀ (w : BitVec 16) (a b a' b' : Word),
    (∀ i, decode ⟨w, a, b⟩ = .ok i → ∃ j, decode ⟨w, a', b'⟩ = .ok j ∧ j.mnemonic = i.mnemonic) ∧
    (∀ e, decode ⟨w, a, b⟩ = .error e → decode ⟨w, a', b'⟩ = .error e)

/-- R68: an operand word a command does not use is ignored, and so are the bits of a used one above the operand's width. -/
def Obligations.UnusedOperandBitsAreIgnored : Prop :=
  (∀ (w : BitVec 16) (a b b' : Word), cmdOp w ∉ [0x3#4, 0xB#4] → decode ⟨w, a, b⟩ = decode ⟨w, a, b'⟩) ∧
  (∀ (w : BitVec 16) (a a' b : Word), cmdOp w ∈ [0x0#4, 0x7#4, 0xC#4, 0xD#4] → decode ⟨w, a, b⟩ = decode ⟨w, a', b⟩) ∧
  (∀ (a a' : Word) (s : State), a.toNat % 2 ^ 32 = a'.toNat % 2 ^ 32 →
    exec (.expand a) s = exec (.expand a') s ∧ exec (.permute a) s = exec (.permute a') s ∧
    exec (.bbint32 a) s = exec (.bbint32 a') s ∧
    (∀ i, exec (.bbget32 i a) s = exec (.bbget32 i a') s) ∧
    (∀ i c, exec (.bbset32 i c a) s = exec (.bbset32 i c a') s) ∧
    (∀ b, exec (.feistel a b) s = exec (.feistel a' b) s) ∧
    (∀ b, exec (.bbxor32 a b) s = exec (.bbxor32 a' b) s ∧ exec (.bbxor32 b a) s = exec (.bbxor32 b a') s)) ∧
  (∀ (a a' : Word) (s : State), a.toNat % 2 ^ 48 = a'.toNat % 2 ^ 48 →
    exec (.subst a) s = exec (.subst a') s ∧ exec (.bbint48 a) s = exec (.bbint48 a') s ∧
    (∀ i, exec (.bbget48 i a) s = exec (.bbget48 i a') s) ∧
    (∀ i c, exec (.bbset48 i c a) s = exec (.bbset48 i c a') s) ∧
    (∀ b, exec (.feistel b a) s = exec (.feistel b a') s) ∧
    (∀ b, exec (.bbxor48 a b) s = exec (.bbxor48 a' b) s ∧ exec (.bbxor48 b a) s = exec (.bbxor48 b a') s))

/-- Words written out from R61 and R76 decode to the commands the spec says they are. -/
def Obligations.WorkedEncodingsDecode : Prop :=
  decode ⟨0x1000, 5, 6⟩ = .ok (.loadkey 5) ∧
  decode ⟨0x2000, 5, 6⟩ = .ok (.encode 5) ∧
  decode ⟨0x70F0, 5, 6⟩ = .ok (.rdsubkey 15) ∧
  decode ⟨0x8400, 5, 6⟩ = .ok (.bbint48 5) ∧
  decode ⟨0x9BF0, 5, 6⟩ = .ok (.bbget64 63 5) ∧
  decode ⟨0xA058, 5, 6⟩ = .ok (.bbset32 5 true 5) ∧
  decode ⟨0xB400, 5, 6⟩ = .ok (.bbxor48 5 6) ∧
  decode ⟨0xD2F0, 5, 6⟩ = .ok (.rdtabE 47) ∧
  decode ⟨0xDB00, 5, 6⟩ = .ok (.rdtabS 48) ∧
  decode ⟨0xE000, 5, 6⟩ = .error .reservedOp ∧
  decode ⟨0x8C00, 5, 6⟩ = .error .reservedWidth ∧
  decode ⟨0x2001, 5, 6⟩ = .error .zeroField ∧
  decode ⟨0x1010, 5, 6⟩ = .error .unusedField ∧
  decode ⟨0x9008, 5, 6⟩ = .error .unusedField

/-- A step runs the decoded instruction: between commands, the oldest pending command is accepted and executed on the state
without it; and that is where `withFetchWord` puts an instruction (20_memory.md R50; 10_state.md R27). -/
def Obligations.StepRunsTheDecodedInstruction : Prop :=
  (∀ (s : State) (c : Command) (rest : List HostEvent) (i : Instr),
    s.phase = .idle → s.host = .command c :: rest → decode c = .ok i → step s = exec i { s with host := rest }) ∧
  (∀ (s : State) (nbits w : Nat) (i : Instr),
    decodeTableWord nbits w = some i → step (s.withFetchWord nbits w) = exec i { s with phase := .idle })

/-! ## BitBlock utilities (40_bitblock.md) -/

/-- R91, R92, R97: integer conversion truncates, weighs block index `i` by `2^(W-1-i)`, and round-trips. -/
def Obligations.BlockIntegerConversionRoundTrips : Prop :=
  ∀ W : Nat,
    (∀ n, intOfBlock (blockOfInt W n) = n % 2 ^ W) ∧
    (∀ v : BitVec W, intOfBlock v = ∑ i ∈ Finset.range W, (blockBit v i).toNat * 2 ^ (W - 1 - i)) ∧
    (∀ n, n < 2 ^ W → intOfBlock (blockOfInt W n) = n) ∧
    (∀ v : BitVec W, blockOfInt W (intOfBlock v) = v)

/-- R93: `BBINT.W a` answers `a mod 2^W` and writes nothing; the other words of its opcode are illegal. -/
def Obligations.BbintTruncatesToTheWidth : Prop :=
  (∀ (W : Nat) (mk : Word → Instr) (w : BitVec 16),
    (W, mk, w) ∈ [(32, Instr.bbint32, 0x8000#16), (48, Instr.bbint48, 0x8400#16), (64, Instr.bbint64, 0x8800#16)] →
    (∀ a b, decode ⟨w, a, b⟩ = .ok (mk a)) ∧
    (∀ a s, exec (mk a) s = .next { s with rsp := some ⟨0, BitVec.ofNat 64 (a.toNat % 2 ^ W)⟩ })) ∧
  (∀ (w : BitVec 16) (a b : Word), cmdOp w = 0x8 → w ∉ [0x8000#16, 0x8400#16, 0x8800#16] → ∃ e, decode ⟨w, a, b⟩ = .error e)

/-- R94: `BBGET.W #i, a` answers bit `W-1-i` of the integer, or `ERR_INDEX` when `i >= W`, and writes nothing. -/
def Obligations.BbgetReadsTheBitAtTheBlockIndex : Prop :=
  (∀ (W : Nat) (mk : Nat → Word → Instr) (w : BitVec 16),
    (W, mk, w) ∈ [(32, Instr.bbget32, 0x9000#16), (48, Instr.bbget48, 0x9400#16), (64, Instr.bbget64, 0x9800#16)] →
    (∀ i a b, i < 64 → decode ⟨w ||| (BitVec.ofNat 16 i <<< 4), a, b⟩ = .ok (mk i a)) ∧
    (∀ i a s, i < W →
      exec (mk i a) s = .next { s with rsp := some ⟨0, BitVec.ofNat 64 (a.toNat / 2 ^ (W - 1 - i) % 2)⟩ }) ∧
    (∀ i a s, W ≤ i → exec (mk i a) s = .next { s with rsp := some ⟨2, 0⟩ })) ∧
  (∀ (w : BitVec 16) (a b : Word), cmdOp w = 0x9 → (cmdWsel w = 0b11 ∨ cmdVal w = true ∨ cmdZero w ≠ 0) →
    ∃ e, decode ⟨w, a, b⟩ = .error e)

/-- R95: `BBSET.W #i, #c, a` answers the W-bit block `a` with block index `i` set to `c` and every other bit as in `a`, zeros
above; or `ERR_INDEX` when `i >= W`; and writes nothing. -/
def Obligations.BbsetReplacesTheBitAtTheBlockIndex : Prop :=
  (∀ (W : Nat) (mk : Nat → Bool → Word → Instr) (w : BitVec 16),
    (W, mk, w) ∈ [(32, Instr.bbset32, 0xA000#16), (48, Instr.bbset48, 0xA400#16), (64, Instr.bbset64, 0xA800#16)] →
    (∀ i c a b, i < 64 →
      decode ⟨w ||| (BitVec.ofNat 16 i <<< 4) ||| (BitVec.ofNat 16 c.toNat <<< 3), a, b⟩ = .ok (mk i c a)) ∧
    (∀ i c a s, i < W → ∃ d : Word, exec (mk i c a) s = .next { s with rsp := some ⟨0, d⟩ } ∧ d.toNat < 2 ^ W ∧
      ∀ j, j < W → d.getLsbD (W - 1 - j) = if j = i then c else a.getLsbD (W - 1 - j)) ∧
    (∀ i c a s, W ≤ i → exec (mk i c a) s = .next { s with rsp := some ⟨2, 0⟩ })) ∧
  (∀ (w : BitVec 16) (a b : Word), cmdOp w = 0xA → (cmdWsel w = 0b11 ∨ cmdZero w ≠ 0) → ∃ e, decode ⟨w, a, b⟩ = .error e)

/-- R95, corner cases: `BBGET.W #j` of the result of `BBSET.W #i, #c, a` is `c` where `j = i`, else `BBGET.W #j` of `a`. -/
def Obligations.BbgetAfterBbsetReadsTheWrittenBit : Prop :=
  ∀ (W : Nat) (set : Nat → Bool → Word → Instr) (get : Nat → Word → Instr),
    (W, set, get) ∈ [(32, Instr.bbset32, Instr.bbget32), (48, Instr.bbset48, Instr.bbget48),
      (64, Instr.bbset64, Instr.bbget64)] →
    ∀ (i j : Nat) (c : Bool) (a : Word) (s t : State) (d : Word), i < W → j < W →
      exec (set i c a) s = .next t → t.rsp = some ⟨0, d⟩ →
      (j = i → exec (get j d) t = .next { t with rsp := some ⟨0, if c then 1 else 0⟩ }) ∧
      (j ≠ i → exec (get j d) t = exec (get j a) t)

/-- R96: `BBXOR.W a, b` answers the bitwise exclusive-or of the two W-bit blocks and writes nothing. -/
def Obligations.BbxorIsBitwiseAtTheWidth : Prop :=
  (∀ (W : Nat) (mk : Word → Word → Instr) (w : BitVec 16),
    (W, mk, w) ∈ [(32, Instr.bbxor32, 0xB000#16), (48, Instr.bbxor48, 0xB400#16), (64, Instr.bbxor64, 0xB800#16)] →
    (∀ a b, decode ⟨w, a, b⟩ = .ok (mk a b)) ∧
    (∀ a b s, exec (mk a b) s =
      .next { s with rsp := some ⟨0, BitVec.ofNat 64 ((a.toNat % 2 ^ W) ^^^ (b.toNat % 2 ^ W))⟩ })) ∧
  (∀ (w : BitVec 16) (a b : Word), cmdOp w = 0xB → w ∉ [0xB000#16, 0xB400#16, 0xB800#16] → ∃ e, decode ⟨w, a, b⟩ = .error e)

/-! ## Tables (41_tables.md) -/

/-- R116: the core's table set is well-formed; so are `TABLES_REF` (R118) and `TABLES_TOY` (R119). That an ill-formed parameter
is replaced is the model's choice (log 1). -/
def Obligations.TableSetsAreWellFormed : Prop :=
  Config.tables.WF ∧ tablesRef.WF ∧ tablesToy.WF

/-- R120: `RDTAB` answers the stored entry, or `ERR_INDEX`, and writes nothing; with the rule's examples. -/
def Obligations.RdtabReadsTheEntry : Prop :=
  (∀ i a b, i < 64 → decode ⟨0xD000 ||| (BitVec.ofNat 16 i <<< 4), a, b⟩ = .ok (.rdtabE i) ∧
    decode ⟨0xD400 ||| (BitVec.ofNat 16 i <<< 4), a, b⟩ = .ok (.rdtabP i) ∧
    decode ⟨0xD800 ||| (BitVec.ofNat 16 i <<< 4), a, b⟩ = .ok (.rdtabS i)) ∧
  (∀ (s : State) (i : Fin 48),
    exec (.rdtabE i) s = .next { s with rsp := some ⟨0, BitVec.ofNat 64 Config.tables.e[i].toNat⟩ }) ∧
  (∀ (s : State) (i : Nat), 48 ≤ i → exec (.rdtabE i) s = .next { s with rsp := some ⟨2, 0⟩ }) ∧
  (∀ (s : State) (i : Fin 32),
    exec (.rdtabP i) s = .next { s with rsp := some ⟨0, BitVec.ofNat 64 Config.tables.p[i].toNat⟩ }) ∧
  (∀ (s : State) (i : Nat), 32 ≤ i → exec (.rdtabP i) s = .next { s with rsp := some ⟨2, 0⟩ }) ∧
  (∀ (s : State) (row : Fin 4) (col : Fin 16), exec (.rdtabS (16 * row + col)) s =
    .next { s with rsp := some ⟨0, BitVec.ofNat 64 Config.tables.sbox[row][col].toNat⟩ }) ∧
  (∀ s : State, rdtabE tablesRef 0 s = .next { s with rsp := some ⟨0, 32⟩ } ∧
    rdtabP tablesRef 0 s = .next { s with rsp := some ⟨0, 16⟩ } ∧
    rdtabS tablesRef (16 * 3 + 0) s = .next { s with rsp := some ⟨0, 15⟩ } ∧
    rdtabE tablesRef 48 s = .next { s with rsp := some ⟨2, 0⟩ }) ∧
  (∀ (w : BitVec 16) (a b : Word), cmdOp w = 0xD → (cmdWsel w = 0b11 ∨ cmdVal w = true ∨ cmdZero w ≠ 0) →
    ∃ e, decode ⟨w, a, b⟩ = .error e)

/-- Every entry a host reads back is in the range of R113 to R115: "no index may lead to an out-of-range access". Rests on the
parameter being well-formed (R116; log 1). -/
def Obligations.EntriesReadBackAreInRange : Prop :=
  (∀ (s : State) (i : Nat), i < 48 → ∃ v : Word,
    exec (.rdtabE i) s = .next { s with rsp := some ⟨0, v⟩ } ∧ 1 ≤ v.toNat ∧ v.toNat ≤ 32) ∧
  (∀ (s : State) (i : Nat), i < 32 → ∃ v : Word,
    exec (.rdtabP i) s = .next { s with rsp := some ⟨0, v⟩ } ∧ 1 ≤ v.toNat ∧ v.toNat ≤ 32) ∧
  (∀ (s : State) (i : Nat), i < 64 → ∃ v : Word,
    exec (.rdtabS i) s = .next { s with rsp := some ⟨0, v⟩ } ∧ v.toNat ≤ 15)

/-! ## Round function (43_round_function.md) -/

/-- R151: `EXPAND a` answers the 48-bit block whose integer bit `47-i` is bit `32 - E[i]` of `a`, and writes nothing; with the
rule's corner cases and examples. -/
def Obligations.ExpandSelectsSourceBits : Prop :=
  (∀ a b, decode ⟨0x4000, a, b⟩ = .ok (.expand a)) ∧
  (∀ (a : Word) (s : State), ∃ x : Word, exec (.expand a) s = .next { s with rsp := some ⟨0, x⟩ } ∧ x.toNat < 2 ^ 48 ∧
    ∀ i : Fin 48, x.getLsbD (47 - i) = a.getLsbD (32 - Config.tables.e[i].toNat)) ∧
  (∀ s : State, exec (.expand 0) s = .next { s with rsp := some ⟨0, 0⟩ } ∧
    exec (.expand 0xFFFFFFFF) s = .next { s with rsp := some ⟨0, 0xFFFFFFFFFFFF⟩ }) ∧
  (∀ b : Fin 32, ∃ x : Word, (∀ s, exec (.expand (1#64 <<< (31 - b.val))) s = .next { s with rsp := some ⟨0, x⟩ }) ∧
    (∀ i : Fin 48, x.getLsbD (47 - i) = true ↔ Config.tables.e[i].toNat = b + 1) ∧
    1 ≤ (List.range 64).countP (fun k => x.getLsbD k) ∧ (List.range 64).countP (fun k => x.getLsbD k) ≤ 2) ∧
  expandHalf tablesRef 0xF0AAF0AA = 0x7A15557A1555 ∧ expandHalf tablesToy 0x12345678 = 0x123456781234 ∧
  (∀ (w : BitVec 16) (a b : Word), cmdOp w = 0x4 → w ≠ 0x4000 → ∃ e, decode ⟨w, a, b⟩ = .error e)

/-- R146, for every well-formed table set: the integer form of `expand`, every source bit appears once or twice, and `expand`
keeps 0 and all ones and is injective. -/
def Obligations.ExpandIsInjective : Prop :=
  ∀ T : Tables, T.WF →
    (∀ (r : Half) (i : Fin 48), (expandHalf T r).getLsbD (47 - i) = r.getLsbD (32 - T.e[i].toNat)) ∧
    (∀ b : Fin 32, 1 ≤ (List.finRange 48).countP (fun i => T.e[i].toNat == b.val + 1) ∧
      (List.finRange 48).countP (fun i => T.e[i].toNat == b.val + 1) ≤ 2) ∧
    expandHalf T 0 = 0 ∧ expandHalf T 0xFFFFFFFF = 0xFFFFFFFFFFFF ∧ Function.Injective (expandHalf T)

/-- R152 with R148: `SUBST a` answers, in slot `j`, the entry of the one S-box at the row of the first and last bit and the
column of the middle four bits of chunk `j`, and writes nothing; with the rule's corner cases and examples. -/
def Obligations.SubstLooksUpEachChunk : Prop :=
  (∀ a b, decode ⟨0x5000, a, b⟩ = .ok (.subst a)) ∧
  (∀ (a : Word) (s : State), ∃ x : Word, exec (.subst a) s = .next { s with rsp := some ⟨0, x⟩ } ∧ x.toNat < 2 ^ 32 ∧
    ∀ (j c : Nat) (row : Fin 4) (col : Fin 16), j < 8 → c = a.toNat / 2 ^ (42 - 6 * j) % 64 →
      row.val = 2 * (c / 32) + c % 2 → col.val = c / 2 % 16 →
      x.toNat / 2 ^ (28 - 4 * j) % 16 = Config.tables.sbox[row][col].toNat) ∧
  (∀ s : State, exec (.subst 0) s =
      .next { s with rsp := some ⟨0, BitVec.ofNat 64 (0x11111111 * Config.tables.sbox[0][0].toNat)⟩ } ∧
    exec (.subst 0xFFFFFFFFFFFF) s =
      .next { s with rsp := some ⟨0, BitVec.ofNat 64 (0x11111111 * Config.tables.sbox[3][15].toNat)⟩ }) ∧
  substitute tablesRef 0 = 0xEEEEEEEE ∧ substitute tablesRef 0x6117BA866527 = 0x5A7AF862 ∧
  substitute tablesToy 0 = 0x11111111 ∧
  (∀ (w : BitVec 16) (a b : Word), cmdOp w = 0x5 → w ≠ 0x5000 → ∃ e, decode ⟨w, a, b⟩ = .error e)

/-- R155: the row is below 4 and the column below 16 for all 64 chunks, so the modulo reductions change nothing. -/
def Obligations.SboxIndicesNeedNoReduction : Prop :=
  ∀ c : Chunk, sboxRow c < 4 ∧ sboxCol c < 16 ∧ sboxRow c % 4 = sboxRow c ∧ sboxCol c % 16 = sboxCol c

/-- R153: `PERMUTE a` answers the 32-bit block whose integer bit `31-i` is bit `32 - P[i]` of `a`, and writes nothing; with the
rule's corner cases and examples. -/
def Obligations.PermuteSelectsSourceBits : Prop :=
  (∀ a b, decode ⟨0x6000, a, b⟩ = .ok (.permute a)) ∧
  (∀ (a : Word) (s : State), ∃ x : Word, exec (.permute a) s = .next { s with rsp := some ⟨0, x⟩ } ∧ x.toNat < 2 ^ 32 ∧
    ∀ i : Fin 32, x.getLsbD (31 - i) = a.getLsbD (32 - Config.tables.p[i].toNat)) ∧
  (∀ s : State, exec (.permute 0) s = .next { s with rsp := some ⟨0, 0⟩ } ∧
    exec (.permute 0xFFFFFFFF) s = .next { s with rsp := some ⟨0, 0xFFFFFFFF⟩ }) ∧
  (∀ b : Fin 32, ∃ i : Fin 32, (∀ j : Fin 32, Config.tables.p[j].toNat = b + 1 ↔ j = i) ∧
    ∀ s, exec (.permute (1#64 <<< (31 - b.val))) s = .next { s with rsp := some ⟨0, 1#64 <<< (31 - i.val)⟩ }) ∧
  permuteHalf tablesRef 0xEEEEEEEE = 0x59FF97FD ∧ permuteHalf tablesRef 0x80000000 = 0x00800000 ∧
  permuteHalf tablesToy 0x12345678 = 0x1E6A2C48 ∧
  (∀ (w : BitVec 16) (a b : Word), cmdOp w = 0x6 → w ≠ 0x6000 → ∃ e, decode ⟨w, a, b⟩ = .error e)

/-- R149, for every well-formed table set: the integer form of `permute`; it is a bijection, keeps 0 and all ones, and preserves
the number of 1 bits. -/
def Obligations.PermuteIsABijectionKeepingOnes : Prop :=
  ∀ T : Tables, T.WF →
    (∀ (x : Half) (i : Fin 32), (permuteHalf T x).getLsbD (31 - i) = x.getLsbD (32 - T.p[i].toNat)) ∧
    Function.Bijective (permuteHalf T) ∧ permuteHalf T 0 = 0 ∧ permuteHalf T 0xFFFFFFFF = 0xFFFFFFFF ∧
    ∀ x : Half, (List.range 32).countP (fun k => (permuteHalf T x).getLsbD k) = (List.range 32).countP (fun k => x.getLsbD k)

/-- R154 with R150: `FEISTEL a, b` answers what `PERMUTE(SUBST(BBXOR.48(EXPAND a, b)))` answers, the same in every state (whatever
`KEYV` and `SK` are), and writes nothing; with `b = expand(a)` the mix cancels; `FEISTEL 0, 0` permutes `SBOX[0][0]` repeated; with the rule's examples. -/
def Obligations.FeistelIsTheCompositionOfTheStageCommands : Prop :=
  (∀ a b, decode ⟨0x3000, a, b⟩ = .ok (.feistel a b)) ∧
  (∀ a b : Word, ∃ x y z w : Word, ∀ s : State,
    exec (.expand a) s = .next { s with rsp := some ⟨0, x⟩ } ∧
    exec (.bbxor48 x b) s = .next { s with rsp := some ⟨0, y⟩ } ∧
    exec (.subst y) s = .next { s with rsp := some ⟨0, z⟩ } ∧
    exec (.permute z) s = .next { s with rsp := some ⟨0, w⟩ } ∧
    exec (.feistel a b) s = .next { s with rsp := some ⟨0, w⟩ } ∧
    exec (.feistel a x) s = exec (.feistel 0 0) s) ∧
  (∀ s : State, exec (.feistel 0 0) s =
    exec (.permute (BitVec.ofNat 64 (0x11111111 * Config.tables.sbox[0][0].toNat))) s) ∧
  feistel tablesRef 0 0 = 0x59FF97FD ∧ feistel tablesRef 0xF0AAF0AA 0x1B02EFFC7072 = 0x755F84C6 ∧
  feistel tablesToy 0 0 = 0x88888888 ∧
  (∀ (w : BitVec 16) (a b : Word), cmdOp w = 0x3 → w ≠ 0x3000 → ∃ e, decode ⟨w, a, b⟩ = .error e)

/-- The source's avalanche check (R117) for both instantiations, at the all-zero plaintext and key of 95_test_vectors.md 2.6:
every one-bit flip of the right half changes the round-0 output. -/
def Obligations.OneBitFlipChangesTheRoundZeroOutput : Prop :=
  ∀ b : Fin 32, feistel tablesRef (1#32 <<< b.val) 0 ≠ feistel tablesRef 0 0 ∧
    feistel tablesToy (1#32 <<< b.val) 0 ≠ feistel tablesToy 0 0

/-! ## Key schedule (42_key_schedule.md) -/

/-- R131, R130, R219: `LOADKEY` with `KEYV = 0` loads `SK[r] = (K >> r) and MASK48` for all sixteen `r` (block index `j` of it is
block index `16 - r + j` of the key), sets `KEYV` and writes nothing else; with `KEYV = 1` it answers `ERR_KEYLOCKED` and
changes nothing. -/
def Obligations.LoadkeyLoadsTheScheduleOnce : Prop :=
  (∀ a b, decode ⟨0x1000, a, b⟩ = .ok (.loadkey a)) ∧
  (∀ (s : State) (K : Word), s.inst = .empty → ∃ sk : SubkeyFile,
    exec (.loadkey K) s = .next { s with inst := .keyed sk, rsp := some ⟨0, 0⟩ } ∧
    ∀ r : Fin 16, sk[r].toNat = K.toNat / 2 ^ r.val % 2 ^ 48 ∧ ∀ j, j < 48 → blockBit sk[r] j = blockBit K (16 - r + j)) ∧
  (∀ (s : State) (K : Word) (sk : SubkeyFile), s.inst = .keyed sk →
    exec (.loadkey K) s = .next { s with rsp := some ⟨4, 0⟩ }) ∧
  (∀ (w : BitVec 16) (a b : Word), cmdOp w = 0x1 → w ≠ 0x1000 → ∃ e, decode ⟨w, a, b⟩ = .error e)

/-- R132: `RDSUBKEY #r` answers `SK[r]`, or `ERR_INDEX` for `r > 15` whatever `KEYV` is, or else `ERR_NOKEY` with `KEYV = 0`; it
writes nothing. -/
def Obligations.RdsubkeyReadsTheSubkey : Prop :=
  (∀ i a b, i < 64 → decode ⟨0x7000 ||| (BitVec.ofNat 16 i <<< 4), a, b⟩ = .ok (.rdsubkey i)) ∧
  (∀ (s : State) (sk : SubkeyFile) (i : Fin 16), s.inst = .keyed sk →
    exec (.rdsubkey i) s = .next { s with rsp := some ⟨0, BitVec.ofNat 64 sk[i].toNat⟩ }) ∧
  (∀ (s : State) (i : Nat), 16 ≤ i → exec (.rdsubkey i) s = .next { s with rsp := some ⟨2, 0⟩ }) ∧
  (∀ (s : State) (i : Nat), i < 16 → s.inst = .empty → exec (.rdsubkey i) s = .next { s with rsp := some ⟨3, 0⟩ }) ∧
  (∀ (w : BitVec 16) (a b : Word), cmdOp w = 0x7 → (cmdWsel w ≠ 0 ∨ cmdVal w = true ∨ cmdZero w ≠ 0) →
    ∃ e, decode ⟨w, a, b⟩ = .error e)

/-- R133: the first and last subkey, successive subkeys as one-bit shifts, where each key bit enters, and the all-zero and
all-ones keys. -/
def Obligations.KeyScheduleConsequences : Prop :=
  (∀ K : Word, (subkey K 0).toNat = K.toNat % 2 ^ 48 ∧ (subkey K 15).toNat = K.toNat / 2 ^ 15 % 2 ^ 48) ∧
  (∀ (K : Word) (r : Nat), r < 15 →
    subkey K (r + 1) = (subkey K r >>> 1) ||| ((BitVec.ofBool (K.getLsbD (48 + r))).setWidth 48 <<< 47)) ∧
  (∀ (K : Word) (s : State), exec (.loadkey (K ^^^ (1#64 <<< 63))) s = exec (.loadkey K) s) ∧
  (∀ (T : Tables) (K pt : Word), encodeBlock T (schedule (K ^^^ (1#64 <<< 63))) pt = encodeBlock T (schedule K) pt) ∧
  (∀ j r : Nat, j < 15 → r < 16 → ((∀ K : Word, subkey (K ^^^ (1#64 <<< (48 + j))) r = subkey K r) ↔ r ≤ j)) ∧
  (∀ r, r < 16 → subkey 0 r = 0 ∧ subkey 0xFFFFFFFFFFFFFFFF r = 0xFFFFFFFFFFFF)

/-! ## Driver (44_driver.md) -/

/-- R176, R175 with R171 to R174: with a key loaded, `ENCODE pt` answers `R_16 ++ L_16` of the sixteen rounds from
`L_0 = pt[63:32]`, `R_0 = pt[31:0]`, leaves `KEYV` and `SK` as they were and `PHASE = IDLE`; without a key it answers
`ERR_NOKEY` and changes nothing. What `L`, `R`, `RND`, `BLK` hold afterwards is left open. With the rule's examples. -/
def Obligations.EncodeIsSixteenFeistelRounds : Prop :=
  (∀ a b, decode ⟨0x2000, a, b⟩ = .ok (.encode a)) ∧
  (∀ (s : State) (pt : Word) (sk : SubkeyFile), s.inst = .keyed sk →
    ∃ t, exec (.encode pt) s = .next t ∧ t.inst = .keyed sk ∧ t.phase = .idle ∧ t.host = s.host ∧
      ∀ L R : Nat → Half, (L 0).toNat = pt.toNat / 2 ^ 32 → (R 0).toNat = pt.toNat % 2 ^ 32 →
        (∀ r : Fin 16, L (r + 1) = R r ∧ R (r + 1) = L r ^^^ feistel Config.tables (R r) sk[r]) →
        t.rsp = some ⟨0, R 16 ++ L 16⟩) ∧
  (∀ (s : State) (pt : Word), s.inst = .empty → exec (.encode pt) s = .next { s with rsp := some ⟨3, 0⟩ }) ∧
  encodeBlock tablesRef (schedule 0) 0 = 0x82C23DAF34C34096 ∧ encodeBlock tablesToy (schedule 0) 0 = 0x9AD732705D140D6F ∧
  (∀ (w : BitVec 16) (a b : Word), cmdOp w = 0x2 → w ≠ 0x2000 → ∃ e, decode ⟨w, a, b⟩ = .error e)

/-- R177, transition by transition, for a step of the machine with an `ENCODE` in flight and no reset pending. -/
def Obligations.SequencerTransitions : Prop :=
  ∀ s : State, (∀ rest, s.host ≠ .reset :: rest) →
    (s.phase = .initial → ∃ l r : Half, l.toNat = s.blk.toNat / 2 ^ 32 ∧ r.toNat = s.blk.toNat % 2 ^ 32 ∧
      step s = .next { s with l := l, r := r, rnd := 0, phase := .round, rsp := none }) ∧
    (∀ sk : SubkeyFile, s.phase = .round → s.inst = .keyed sk → ∀ f : Half,
      (∀ r : Fin 16, r.val = s.rnd.toNat → f = feistel Config.tables s.r sk[r]) →
      (s.rnd = 15 → step s = .next { s with l := s.r, r := s.l ^^^ f, phase := .final, rsp := none }) ∧
      (s.rnd ≠ 15 → step s = .next { s with l := s.r, r := s.l ^^^ f, rnd := s.rnd + 1, rsp := none })) ∧
    (s.phase = .final → ∃ t, step s = .next t ∧ t.rsp = some ⟨0, s.r ++ s.l⟩ ∧ t.phase = .idle ∧ t.inst = s.inst ∧
      t.host = s.host)

/-- R178: from acceptance, eighteen steps of the sequencer end where the whole command ends, with the response `R_16 ++ L_16`;
after the `INITIAL` step and `r` rounds `(L, R) = (L_r, R_r)` and `RND = r`, with no response yet; after sixteen rounds
`PHASE = FINAL`. That one step of the model is one transition of `PHASE` is the model's choice (log 6). -/
def Obligations.SequencerStepsComputeTheCommand : Prop :=
  ∀ (s : State) (pt : Word) (sk : SubkeyFile), s.inst = .keyed sk → (∀ rest, s.host ≠ .reset :: rest) →
    core.run 18 (acceptEncode pt s) = exec (.encode pt) s ∧
    (∀ r : Nat, r < 16 → ∃ t : State, core.run (1 + r) (acceptEncode pt s) = .next t ∧ t.phase = .round ∧
      t.rnd.toNat = r ∧ (t.l, t.r) = halvesAfter Config.tables sk pt r ∧ t.rsp = none) ∧
    (∃ t : State, core.run 17 (acceptEncode pt s) = .next t ∧ t.phase = .final ∧
      (t.l, t.r) = halvesAfter Config.tables sk pt 16 ∧ t.rsp = none) ∧
    (∃ t : State, core.run 18 (acceptEncode pt s) = .next t ∧ t.phase = .idle ∧ t.inst = .keyed sk ∧
      t.rsp = some ⟨0, (halvesAfter Config.tables sk pt 16).2 ++ (halvesAfter Config.tables sk pt 16).1⟩)

/-! ## State and system commands (10_state.md, 45_system_and_host.md) -/

/-- R190 with R26: `STATUS` answers `0x1000` with `KEYV = 0` and `0x1001` with `KEYV = 1`, and writes nothing. -/
def Obligations.StatusReturnsVersionAndKeyv : Prop :=
  (∀ a b, decode ⟨0x0000, a, b⟩ = .ok .status) ∧
  (∀ s : State, s.inst = .empty → exec .status s = .next { s with rsp := some ⟨0, 0x1000⟩ }) ∧
  (∀ (s : State) (sk : SubkeyFile), s.inst = .keyed sk → exec .status s = .next { s with rsp := some ⟨0, 0x1001⟩ }) ∧
  (∀ (w : BitVec 16) (a b : Word), cmdOp w = 0x0 → w ≠ 0x0000 → ∃ e, decode ⟨w, a, b⟩ = .error e)

/-- R192: `DISCARD` sets `KEYV = 0`, answers success and writes nothing else, also with `KEYV = 0` already; afterwards `KEYV`, `SK`
and `PHASE` are as after reset, and a new `LOADKEY` succeeds. -/
def Obligations.DiscardEndsTheInstance : Prop :=
  (∀ a b, decode ⟨0xC000, a, b⟩ = .ok .discard) ∧
  (∀ s : State, exec .discard s = .next { s with inst := .empty, rsp := some ⟨0, 0⟩ }) ∧
  (∀ s t : State, s.phase = .idle → exec .discard s = .next t →
    t.inst = State.reset.inst ∧ t.phase = State.reset.phase ∧
    ∀ K, ∃ sk, exec (.loadkey K) t = .next { t with inst := .keyed sk, rsp := some ⟨0, 0⟩ }) ∧
  (∀ (w : BitVec 16) (a b : Word), cmdOp w = 0xC → w ≠ 0xC000 → ∃ e, decode ⟨w, a, b⟩ = .error e)

/-- R30 with 44_driver.md R180: the response and the next `KEYV`, `SK` and `PHASE` are a function of `KEYV`, `SK`, `TABLES` and the command
only; nothing an earlier command left in a working register is seen. -/
def Obligations.ResponseDependsOnKeyStateAndCommandOnly : Prop :=
  ∀ (s₁ s₂ t₁ t₂ : State) (c : Command) (rest₁ rest₂ : List HostEvent),
    s₁.phase = .idle → s₂.phase = .idle → s₁.host = .command c :: rest₁ → s₂.host = .command c :: rest₂ →
    s₁.inst = s₂.inst → step s₁ = .next t₁ → step s₂ = .next t₂ →
    t₁.rsp = t₂.rsp ∧ t₁.inst = t₂.inst ∧ t₁.phase = t₂.phase

/-- R20, the writers: only `LOADKEY` and `DISCARD` write `KEYV` and `SK`, only `ENCODE` writes the working registers, and every other
command writes nothing but its response. -/
def Obligations.OnlyTheNamedCommandsWriteState : Prop :=
  ∀ (i : Instr) (s t : State), exec i s = .next t →
    ((∀ a, i ≠ .loadkey a) → i ≠ .discard → (∀ a, i ≠ .encode a) → t = { s with rsp := t.rsp }) ∧
    ((∃ a, i = .loadkey a) ∨ i = .discard → t = { s with inst := t.inst, rsp := t.rsp }) ∧
    ((∃ a, i = .encode a) → t.inst = s.inst ∧ t.host = s.host ∧ (s.phase = .idle → t.phase = .idle))

/-! ## Errors (60_exceptions.md) -/

/-- R221: an error is the response `(code, 0)` and no state register changes. -/
def Obligations.AnErrorChangesNoState : Prop :=
  ∀ (i : Instr) (s t : State) (x : Response), exec i s = .next t → t.rsp = some x → x.err ≠ 0 →
    x.data = 0 ∧ t = { s with rsp := some x }

/-- R217, R218, R219: a decoded command answers code 2 exactly on an out-of-range index, 3 exactly when it needs a key that is not
loaded, 4 exactly when it is `LOADKEY` with a key loaded, and else 0. -/
def Obligations.EachErrorCodeExactlyByItsCause : Prop :=
  ∀ (i : Instr) (s : State), ∃ (t : State) (x : Response), exec i s = .next t ∧ t.rsp = some x ∧
    (x.err = 2 ↔ IndexOutOfRange i) ∧
    (x.err = 3 ↔ NeedsKey i ∧ s.inst = .empty) ∧
    (x.err = 4 ↔ (∃ a, i = .loadkey a) ∧ s.inst ≠ .empty) ∧
    (x.err = 0 ∨ x.err = 2 ∨ x.err = 3 ∨ x.err = 4)

/-! ## The whole machine (20_memory.md, 70_reset_and_hazards.md) -/

/-- R253: the `command` event is total (every state and every command have a next state and a response), every step has a next
state, and so no run ever stops. -/
def Obligations.EveryStepHasANextState : Prop :=
  (∀ (c : Command) (s : State), ∃ t x, runCommand c s = .next t ∧ t.rsp = some x) ∧
  (∀ s : State, ∃ t, step s = .next t) ∧ ∀ (n : Nat) (s : State), SafeRun n s

/-- The invariant (no command in flight, the subkey file a schedule, the response legal) is kept by every step. -/
def Obligations.EveryStepKeepsTheInvariant : Prop :=
  ∀ s t : State, Inv s → step s = .next t → Inv t

/-- The invariant holds at reset, and the reset state is R246's in every value the spec gives. -/
def Obligations.ResetMeetsTheInvariant : Prop :=
  Inv State.reset ∧ State.reset.keyv = false ∧ State.reset.phase = .idle ∧ State.reset.cmdReady = true ∧
    State.reset.rsp = none

/-- In every state a run from reset reaches, whatever the host does: no command is in flight, `SK` is the schedule of some key,
the response is legal. -/
def Obligations.EveryReachableStateMeetsTheInvariant : Prop :=
  ∀ s : State, Reachable s → Inv s

/-- 10_state.md R33, step by step: with a key loaded, a step keeps `KEYV` and `SK` unless its event is a reset or (between commands)
a word that decodes to `DISCARD`; and between commands it ends between commands. -/
def Obligations.EveryStepButDiscardAndResetKeepsTheSubkeys : Prop :=
  ∀ (s t : State) (sk : SubkeyFile), (∀ rest, s.host ≠ .reset :: rest) →
    (s.phase = .idle → ∀ c rest, s.host = .command c :: rest → decode c ≠ .ok .discard) →
    s.inst = .keyed sk → step s = .next t → t.inst = .keyed sk ∧ (s.phase = .idle → t.phase = .idle)

/-- 10_state.md R33: after a successful `LOADKEY K`, `SK[r] = subkey(K, r)` for every `r` after every number of further steps in which
the host does not present a reset or a `DISCARD`, whatever it does later. -/
def Obligations.LoadedScheduleStaysUntilDiscardOrReset : Prop :=
  ∀ (s : State) (c : Command) (K : Word) (rest : List HostEvent),
    s.phase = .idle → s.inst = .empty → s.host = .command c :: rest → decode c = .ok (.loadkey K) →
    ∀ (n : Nat) (t : State), (∀ e ∈ rest.take n, ∃ d, e = .command d ∧ decode d ≠ .ok .discard) →
      core.run (n + 1) s = .next t →
      ∃ sk, t.inst = .keyed sk ∧ ∀ r : Fin 16, sk[r].toNat = K.toNat / 2 ^ r.val % 2 ^ 48

/-- R245, R247: a reset, whatever the core was doing, gives `KEYV = 0`, `PHASE = IDLE`, `cmd_ready = 1` and no response. -/
def Obligations.ResetAbandonsWhateverWasRunning : Prop :=
  ∀ (s : State) (rest : List HostEvent), s.host = .reset :: rest →
    ∃ t, step s = .next t ∧ t.keyv = false ∧ t.phase = .idle ∧ t.cmdReady = true ∧ t.rsp = none ∧ t.host = rest

/-- R250: while an `ENCODE` is in flight `cmd_ready = 0` and no command is accepted; it waits unchanged, and the response comes only
at the last transition. That `cmd_ready` is 1 again in the very step of the response is the model's choice (logs 6 and 9):
the rule leaves open whether in that cycle or the one after. -/
def Obligations.NoCommandIsAcceptedInFlight : Prop :=
  ∀ (s : State) (c : Command) (rest : List HostEvent), s.phase ≠ .idle → s.host = .command c :: rest →
    s.cmdReady = false ∧ ∃ t, step s = .next t ∧ t.host = s.host ∧ t.inst = s.inst ∧
      (t.rsp ≠ none ↔ s.phase = .final) ∧ (t.cmdReady = true ↔ s.phase = .final)

/-- 10_state.md R28: an accepted command gets exactly one response, and `rsp_valid` falls where no command is presented next. -/
def Obligations.EveryAcceptedCommandGetsOneResponse : Prop :=
  (∀ (s : State) (c : Command) (rest : List HostEvent), s.phase = .idle → s.host = .command c :: rest →
    ∃ t x, step s = .next t ∧ t.rsp = some x ∧ t.host = rest ∧ t.phase = .idle) ∧
  (∀ s : State, s.phase = .idle → s.host = [] → step s = .next { s with rsp := none })

/-- 20_memory.md R54: a step of one core is a step of that core and leaves every other core as it was. -/
def Obligations.OtherCoresAreUnaffected : Prop :=
  ∀ (k : Nat) (cores cores' : List State), stepCore k cores = .next cores' →
    cores'.length = cores.length ∧ (∀ j, j ≠ k → cores'[j]? = cores[j]?) ∧
    ∀ s, cores[k]? = some s → ∃ t, step s = .next t ∧ cores'[k]? = some t

/-! ## Host adapter (45_system_and_host.md) and assembler (30_encoding.md R73) -/

/-- R194: a string of another length is `InvalidLength`; one of the right length with another character is `InvalidCharacter`; any
other is the block whose block index `i` is character `i`, the string read as a binary numeral. -/
def Obligations.ParseBitsAcceptsExactlyTheBitStrings : Prop :=
  ∀ (W : Nat) (s : List Char),
    (s.length ≠ W → parseBits W s = .error .invalidLength) ∧
    (s.length = W → (∃ c ∈ s, c ≠ '0' ∧ c ≠ '1') → parseBits W s = .error .invalidCharacter) ∧
    (s.length = W → (∀ c ∈ s, c = '0' ∨ c = '1') → ∃ v : BitVec W, parseBits W s = .ok v ∧
      (∀ i, i < W → (blockBit v i = true ↔ s[i]? = some '1')) ∧
      v.toNat = s.foldl (fun n c => 2 * n + if c = '1' then 1 else 0) 0)

/-- R195: `render_bits` writes block index `i` as character `i`, and is the inverse of `parse_bits`, both ways. -/
def Obligations.RenderAndParseAreInverse : Prop :=
  ∀ W : Nat,
    (∀ v : BitVec W, (renderBits v).length = W ∧
      ∀ i, i < W → (renderBits v)[i]? = some (if blockBit v i then '1' else '0')) ∧
    (∀ v : BitVec W, parseBits W (renderBits v) = .ok v) ∧
    (∀ (s : List Char) (v : BitVec W), parseBits W s = .ok v → renderBits v = s)

/-- R196: `new` with a malformed string sends no command and leaves the core unchanged; with a valid key it is `LOADKEY`. -/
def Obligations.HostNewLoadsAValidKeyOrNothing : Prop :=
  ∀ s : State, s.phase = .idle →
    (∀ str e, parseBits 64 str = .error e → hostNew (.bits str) s = .rejected e s ∧ isInvalidKeyFormat e = true) ∧
    (∀ str K, parseBits 64 str = .ok K → hostNew (.bits str) s = hostNew (.int K.toNat) s) ∧
    (∀ n, s.inst = .empty →
      hostNew (.int n) s = .done () { s with inst := .keyed (schedule (BitVec.ofNat 64 n)), rsp := some ⟨0, 0⟩ }) ∧
    (∀ n sk, s.inst = .keyed sk → hostNew (.int n) s = .failed 4 { s with rsp := some ⟨4, 0⟩ })

/-- R197: `encode` with a malformed string sends no command; with a key loaded it returns the ciphertext as an integer and as its
canonical string; without one it fails with `ERR_NOKEY`. -/
def Obligations.HostEncodeReturnsIntegerAndString : Prop :=
  ∀ s : State, s.phase = .idle →
    (∀ str e, parseBits 64 str = .error e → hostEncode (.bits str) s = .rejected e s) ∧
    (∀ str pt, parseBits 64 str = .ok pt → hostEncode (.bits str) s = hostEncode (.int pt.toNat) s) ∧
    (∀ n sk, s.inst = .keyed sk → ∃ t ct, ct = encodeBlock Config.tables sk (BitVec.ofNat 64 n) ∧
      hostEncode (.int n) s = .done (ct, renderBits ct) t ∧ t.inst = s.inst ∧ t.host = s.host ∧ t.phase = .idle) ∧
    (∀ n, s.inst = .empty → hostEncode (.int n) s = .failed 3 { s with rsp := some ⟨3, 0⟩ })

/-- R191: on a core that is ready, `new` and `encode` of an integer and discarding are the commands `LOADKEY`, `ENCODE` and `DISCARD`:
the state is the command's, and the outcome is its response. -/
def Obligations.HostCallsAreTheirCommands : Prop :=
  ∀ s : State, s.cmdReady = true →
    (∀ n, ∃ t x, exec (.loadkey (BitVec.ofNat 64 n)) s = .next t ∧ t.rsp = some x ∧
      hostNew (.int n) s = if x.err = 0 then .done () t else .failed x.err t) ∧
    (∀ n, ∃ t x, exec (.encode (BitVec.ofNat 64 n)) s = .next t ∧ t.rsp = some x ∧
      hostEncode (.int n) s = if x.err = 0 then .done (x.data, renderBits x.data) t else .failed x.err t) ∧
    hostDiscard s = .done () { s with inst := .empty, rsp := some ⟨0, 0⟩ }

/-- R198: a call presents its command only while `cmd_ready = 1`. On a core that is not ready it sends nothing, takes no response and
leaves the core as it is (a malformed string is rejected all the same); on a core that is ready it gets a response.
`unanswered` is the model's own name (log 19). -/
def Obligations.HostSendsOnlyWhileReady : Prop :=
  (∀ s : State, s.cmdReady = false → hostDiscard s = .unanswered s ∧
    ∀ v : HostValue,
      (∀ k, hostWord v = .ok k → hostNew v s = .unanswered s ∧ hostEncode v s = .unanswered s) ∧
      (∀ e, hostWord v = .error e → hostNew v s = .rejected e s ∧ hostEncode v s = .rejected e s)) ∧
  (∀ s t : State, s.cmdReady = true → hostDiscard s ≠ .unanswered t ∧
    ∀ v : HostValue, hostNew v s ≠ .unanswered t ∧ hostEncode v s ≠ .unanswered t)

/-- The source's key literal, as 90_conflicts.md C1 resolves it: as printed it is a valid key; five characters more are not. -/
def Obligations.SourceKeyLiteralIsAValidKey : Prop :=
  parseBits 64 "0001001100110100010101110111100110011011101111001101111111110001".toList = .ok 0x133457799BBCDFF1 ∧
  parseBits 64 ("0001001100110100010101110111100110011011101111001101111111110001".toList ++ "00000".toList) =
    .error .invalidLength ∧
  parseBits 64 ('2' :: "001001100110100010101110111100110011011101111001101111111110001".toList) = .error .invalidCharacter

/-- R73: the assembler line of a well-formed instruction assembles to its command, also with the mnemonic in any case, and with
trailing operand words left out where they are 0. -/
def Obligations.AssembledLineIsTheEncodedInstruction : Prop :=
  ∀ i : Instr, i.wellFormed = true → assemble (disassemble i) = .ok (encode i) ∧
    ∀ (mnemonic : List Char) (n : Nat), mnemonic.map Char.toUpper = (disassemble i).mnemonic →
      (∀ x ∈ (disassemble i).operands.drop n, x = 0) →
      assemble ⟨mnemonic, (disassemble i).immediates, (disassemble i).operands.take n⟩ = .ok (encode i)

/-- R74: each pseudo-command is exactly another command. -/
def Obligations.PseudoCommandsAreTheirExpansions : Prop :=
  (∀ a : Word, assemble ⟨"NEW".toList, [], [a]⟩ = assemble ⟨"LOADKEY".toList, [], [a]⟩ ∧
    assemble ⟨"NEW".toList, [], [a]⟩ = .ok (encode (.loadkey a))) ∧
  (∀ a b : Word, assemble ⟨"MIX".toList, [], [a, b]⟩ = assemble ⟨"BBXOR.48".toList, [], [a, b]⟩ ∧
    assemble ⟨"MIX".toList, [], [a, b]⟩ = .ok (encode (.bbxor48 a b))) ∧
  assemble ⟨"NOP".toList, [], []⟩ = assemble ⟨"STATUS".toList, [], []⟩ ∧
  assemble ⟨"NOP".toList, [], []⟩ = .ok (encode .status)
end

