-- ==== Sys2Proof/Laws/Decode.lean ====
section
/-! SUPPORT. The fields of a word built from fields, and the word of its fields. -/

namespace Sys2Proof

section fields

variable (op : BitVec 4) (wsel : BitVec 2) (idx : Nat) (val : Bool)
/-- The word bit by bit (30_encoding.md R61). -/
theorem getLsbD_cmdWord (k : Nat) : (cmdWord op wsel idx val).getLsbD k =
    if k < 3 then false else if k < 4 then val else if k < 10 then (BitVec.ofNat 6 idx).getLsbD (k - 4)
    else if k < 12 then wsel.getLsbD (k - 10) else op.getLsbD (k - 12) := by
  change BitVec.getLsbD (w := 4 + 2 + 6 + 1 + 3) (op ++ wsel ++ BitVec.ofNat 6 idx ++ BitVec.ofBool val ++ 0#3) k = _
  simp only [BitVec.getLsbD_append, BitVec.getLsbD_zero, BitVec.getLsbD_ofBool]
  by_cases h3 : k < 3
  · simp [h3]
  by_cases h4 : k < 4
  · simp [h3, h4, show k - 3 = 0 by omega]
  rw [if_neg h3, if_neg h3, if_neg (show ¬ k - 3 < 1 by omega), if_neg h4]
  by_cases h10 : k < 10
  · rw [if_pos (show k - 3 - 1 < 6 by omega), if_pos h10, show k - 3 - 1 = k - 4 by omega]
  rw [if_neg (show ¬ k - 3 - 1 < 6 by omega), if_neg h10]
  by_cases h12 : k < 12
  · rw [if_pos (show k - 3 - 1 - 6 < 2 by omega), if_pos h12, show k - 3 - 1 - 6 = k - 10 by omega]
  · rw [if_neg (show ¬ k - 3 - 1 - 6 < 2 by omega), if_neg h12, show k - 3 - 1 - 6 - 2 = k - 12 by omega]

@[simp] theorem cmdOp_cmdWord : cmdOp (cmdWord op wsel idx val) = op := by
  apply BitVec.eq_of_getLsbD_eq
  intro i hi
  simp [cmdOp, getLsbD_cmdWord, hi, show ¬ 12 + i < 3 by omega, show ¬ 12 + i < 4 by omega, show ¬ 12 + i < 10 by omega]

@[simp] theorem cmdWsel_cmdWord : cmdWsel (cmdWord op wsel idx val) = wsel := by
  apply BitVec.eq_of_getLsbD_eq
  intro i hi
  simp [cmdWsel, getLsbD_cmdWord, hi, show ¬ 10 + i < 3 by omega, show ¬ 10 + i < 4 by omega, show 10 + i < 12 by omega]

@[simp] theorem cmdIdx_cmdWord : cmdIdx (cmdWord op wsel idx val) = BitVec.ofNat 6 idx := by
  apply BitVec.eq_of_getLsbD_eq
  intro i hi
  simp [cmdIdx, getLsbD_cmdWord, hi, show ¬ 4 + i < 3 by omega, show 4 + i < 10 by omega]

@[simp] theorem cmdVal_cmdWord : cmdVal (cmdWord op wsel idx val) = val := by
  rw [cmdVal, getLsbD_cmdWord]
  rfl

@[simp] theorem cmdZero_cmdWord : cmdZero (cmdWord op wsel idx val) = 0#3 := by
  apply BitVec.eq_of_getLsbD_eq
  intro i hi
  simp [cmdZero, getLsbD_cmdWord, hi]

end fields

/-- A word whose `ZERO` is zero is the word of its fields. -/
theorem cmdWord_fields (w : BitVec 16) (h : cmdZero w = 0#3) :
    cmdWord (cmdOp w) (cmdWsel w) (cmdIdx w).toNat (cmdVal w) = w := by
  apply BitVec.eq_of_getLsbD_eq
  intro k hk
  have hz : ∀ i < 3, w.getLsbD i = false := fun i hi => by
    have := congrArg (·.getLsbD i) h
    simpa [cmdZero, hi] using this
  rw [getLsbD_cmdWord]
  split
  · rename_i h3; simp [hz k h3]
  · split
    · rename_i h3 h4; rw [show k = 3 by omega]; rfl
    · split
      · rename_i h10
        rw [BitVec.ofNat_toNat, BitVec.setWidth_eq]
        simp [cmdIdx, show k - 4 < 6 by omega, show 4 + (k - 4) = k by omega]
      · split
        · rename_i h12; simp [cmdWsel, show k - 10 < 2 by omega, show 10 + (k - 10) = k by omega]
        · simp [cmdOp, show k - 12 < 4 by omega, show 12 + (k - 12) = k by omega]

/-- A word whose unused fields are checked passes only with them zero. -/
theorem ifUnusedZero_ok {b : Bool} {x : Except Illegal Instr} {i : Instr} (h : ifUnusedZero b x = .ok i) :
    b = true ∧ x = .ok i := by
  unfold ifUnusedZero at h
  split at h <;> simp_all

/-- A row that uses none of the fields has them all zero. -/
theorem bareCommand_ok {w : BitVec 16} {i j : Instr} (h : bareCommand w i = .ok j) :
    j = i ∧ cmdWsel w = 0#2 ∧ cmdIdx w = 0#6 ∧ cmdVal w = false := by
  obtain ⟨hb, hi⟩ := ifUnusedZero_ok h
  simp_all

/-- Everything `WSEL` can select (30_encoding.md R64). -/
theorem byWidth_ok {w : BitVec 16} {i32 i48 i64 i : Instr} (h : byWidth w i32 i48 i64 = .ok i) :
    (cmdWsel w = 0#2 ∧ i = i32) ∨ (cmdWsel w = 1#2 ∧ i = i48) ∨ (cmdWsel w = 2#2 ∧ i = i64) := by
  unfold byWidth at h
  split at h <;> simp_all

/-- Everything `TSEL` can select (30_encoding.md R75). -/
theorem byTable_ok {w : BitVec 16} {iE iP iS i : Instr} (h : byTable w iE iP iS = .ok i) :
    (cmdWsel w = 0#2 ∧ i = iE) ∨ (cmdWsel w = 1#2 ∧ i = iP) ∨ (cmdWsel w = 2#2 ∧ i = iS) := by
  unfold byTable at h
  split at h <;> simp_all

/-- Whatever decodes has `ZERO` zero (30_encoding.md R67). -/
theorem cmdZero_of_decode_ok {c : Command} {i : Instr} (h : decode c = .ok i) : cmdZero c.word = 0#3 := by
  by_cases hz : cmdZero c.word = 0#3
  · exact hz
  · simp [decode, hz] at h

end Sys2Proof
end

