-- ==== Sys2Proof/Laws/State.lean ====
section
/-! SUPPORT. One lemma per field per named update of State, true by rfl, so that no proof unfolds a record update. -/

namespace Sys2Proof.Machine

section answer
variable (s : State) (x : Response)

@[simp] theorem State.answer_inst : (s.answer x).inst = s.inst := rfl
@[simp] theorem State.answer_phase : (s.answer x).phase = s.phase := rfl
@[simp] theorem State.answer_rnd : (s.answer x).rnd = s.rnd := rfl
@[simp] theorem State.answer_l : (s.answer x).l = s.l := rfl
@[simp] theorem State.answer_r : (s.answer x).r = s.r := rfl
@[simp] theorem State.answer_blk : (s.answer x).blk = s.blk := rfl
@[simp] theorem State.answer_rsp : (s.answer x).rsp = some x := rfl
@[simp] theorem State.answer_host : (s.answer x).host = s.host := rfl
@[simp] theorem State.answer_free : (s.answer x).free = s.free := rfl

end answer

section applyReset
variable (s : State)

@[simp] theorem State.applyReset_inst : s.applyReset.inst = .empty := rfl
@[simp] theorem State.applyReset_phase : s.applyReset.phase = .idle := rfl
@[simp] theorem State.applyReset_rsp : s.applyReset.rsp = none := rfl
@[simp] theorem State.applyReset_host : s.applyReset.host = s.host := rfl
@[simp] theorem State.applyReset_free : s.applyReset.free = s.free := rfl

end applyReset

section acceptEncode
variable (pt : Word) (s : State)

@[simp] theorem acceptEncode_inst : (acceptEncode pt s).inst = s.inst := rfl
@[simp] theorem acceptEncode_phase : (acceptEncode pt s).phase = .initial := rfl
@[simp] theorem acceptEncode_blk : (acceptEncode pt s).blk = pt := rfl
@[simp] theorem acceptEncode_rsp : (acceptEncode pt s).rsp = none := rfl
@[simp] theorem acceptEncode_host : (acceptEncode pt s).host = s.host := rfl
@[simp] theorem acceptEncode_free : (acceptEncode pt s).free = s.free := rfl

end acceptEncode

section seqInitial
variable (s : State)

@[simp] theorem seqInitial_inst : (seqInitial s).inst = s.inst := rfl
@[simp] theorem seqInitial_phase : (seqInitial s).phase = .round := rfl
@[simp] theorem seqInitial_rnd : (seqInitial s).rnd = 0 := rfl
@[simp] theorem seqInitial_l : (seqInitial s).l = leftHalf s.blk := rfl
@[simp] theorem seqInitial_r : (seqInitial s).r = rightHalf s.blk := rfl
@[simp] theorem seqInitial_rsp : (seqInitial s).rsp = none := rfl
@[simp] theorem seqInitial_host : (seqInitial s).host = s.host := rfl
@[simp] theorem seqInitial_free : (seqInitial s).free = s.free := rfl

end seqInitial

section releaseRegisters
variable (s : State)

@[simp] theorem State.releaseRegisters_inst : s.releaseRegisters.inst = s.inst := rfl
@[simp] theorem State.releaseRegisters_phase : s.releaseRegisters.phase = s.phase := rfl
@[simp] theorem State.releaseRegisters_rsp : s.releaseRegisters.rsp = s.rsp := rfl
@[simp] theorem State.releaseRegisters_host : s.releaseRegisters.host = s.host := rfl
@[simp] theorem State.releaseRegisters_free : s.releaseRegisters.free = s.free + 1 := rfl

end releaseRegisters

section seqFinal
variable (s : State)

@[simp] theorem seqFinal_inst : (seqFinal s).inst = s.inst := rfl
@[simp] theorem seqFinal_phase : (seqFinal s).phase = .idle := rfl
@[simp] theorem seqFinal_rsp : (seqFinal s).rsp = some ⟨0, recombine (s.l, s.r)⟩ := rfl
@[simp] theorem seqFinal_host : (seqFinal s).host = s.host := rfl
@[simp] theorem seqFinal_free : (seqFinal s).free = s.free + 1 := rfl

end seqFinal

section seqRound
variable (T : Tables) (s : State)

@[simp] theorem seqRound_inst : (seqRound T s).inst = s.inst := by unfold seqRound; split <;> rfl
@[simp] theorem seqRound_l : (seqRound T s).l = s.r := by unfold seqRound; split <;> rfl
@[simp] theorem seqRound_r : (seqRound T s).r = s.l ^^^ feistel T s.r (readSubkey s.subkeys s.rnd) := by
  unfold seqRound; split <;> rfl
@[simp] theorem seqRound_rsp : (seqRound T s).rsp = none := by unfold seqRound; split <;> rfl
@[simp] theorem seqRound_blk : (seqRound T s).blk = s.blk := by unfold seqRound; split <;> rfl
@[simp] theorem seqRound_host : (seqRound T s).host = s.host := by unfold seqRound; split <;> rfl
@[simp] theorem seqRound_free : (seqRound T s).free = s.free := by unfold seqRound; split <;> rfl
theorem seqRound_phase : (seqRound T s).phase = if s.rnd = 15 then .final else s.phase := by
  unfold seqRound; split <;> simp_all
theorem seqRound_rnd : (seqRound T s).rnd = if s.rnd = 15 then s.rnd else s.rnd + 1 := by
  unfold seqRound; split <;> simp_all

end seqRound

section presentCommand
variable (s : State) (c : Command)

@[simp] theorem State.presentCommand_host : (s.presentCommand c).host = .command c :: s.host := rfl
@[simp] theorem State.presentCommand_phase : (s.presentCommand c).phase = .idle := rfl
@[simp] theorem State.presentCommand_inst : (s.presentCommand c).inst = s.inst := rfl
@[simp] theorem State.presentCommand_rsp : (s.presentCommand c).rsp = s.rsp := rfl

end presentCommand

/-- `KEYV` and the lifecycle are one piece of state (log 2). -/
theorem State.keyv_eq_true {s : State} : s.keyv = true ↔ ∃ sk, s.inst = .keyed sk := by
  unfold State.keyv; cases s.inst <;> simp

theorem State.keyv_eq_false {s : State} : s.keyv = false ↔ s.inst = .empty := by
  unfold State.keyv; cases s.inst <;> simp

/-- With a key loaded the sequencer reads the loaded file. -/
theorem State.subkeys_keyed {s : State} {sk : SubkeyFile} (h : s.inst = .keyed sk) : s.subkeys = sk := by
  simp [State.subkeys, h]

end Sys2Proof.Machine
end

