-- ==== Sys2Proof/Laws/Driver.lean ====
section
/-! SUPPORT. What the sequencer keeps, transition by transition, and what an `ENCODE` leaves. -/

namespace Sys2Proof.Machine

/-- A transition writes neither `KEYV` nor `SK` (44_driver.md R176). -/
@[simp] theorem seqStep_inst (T : Tables) (s : State) : (seqStep T s).inst = s.inst := by
  unfold seqStep; cases s.phase <;> simp

/-- A transition takes nothing from the host (70_reset_and_hazards.md R250). -/
@[simp] theorem seqStep_host (T : Tables) (s : State) : (seqStep T s).host = s.host := by
  unfold seqStep; cases s.phase <;> simp

@[simp] theorem seqRun_inst (T : Tables) (n : Nat) (s : State) : (seqRun T n s).inst = s.inst := by
  induction n generalizing s with
  | zero => rfl
  | succ n ih => simp [seqRun, ih]

@[simp] theorem seqRun_host (T : Tables) (n : Nat) (s : State) : (seqRun T n s).host = s.host := by
  induction n generalizing s with
  | zero => rfl
  | succ n ih => simp [seqRun, ih]

/-- Runs of transitions compose. -/
theorem seqRun_add (T : Tables) (m n : Nat) (s : State) : seqRun T (m + n) s = seqRun T n (seqRun T m s) := by
  induction m generalizing s with
  | zero => simp [seqRun]
  | succ m ih => rw [Nat.succ_add]; simp [seqRun, ih]

theorem seqRun_succ (T : Tables) (n : Nat) (s : State) : seqRun T (n + 1) s = seqStep T (seqRun T n s) := by
  rw [seqRun_add]; rfl

/-- After the `INITIAL` transition and `n` rounds, `n < 16`: the next round is `n` (44_driver.md R177). -/
theorem seqRun_rounds (T : Tables) {s : State} (pt : Word) {sk : SubkeyFile} (h : s.inst = .keyed sk) {n : Nat} (hn : n < 16) :
    (seqRun T (n + 1) (acceptEncode pt s)).phase = .round ∧
    (seqRun T (n + 1) (acceptEncode pt s)).rnd = BitVec.ofNat 4 n ∧
    ((seqRun T (n + 1) (acceptEncode pt s)).l, (seqRun T (n + 1) (acceptEncode pt s)).r) = halvesAfter T sk pt n ∧
    (seqRun T (n + 1) (acceptEncode pt s)).rsp = none ∧
    (seqRun T (n + 1) (acceptEncode pt s)).free = s.free := by
  induction n with
  | zero => simp [seqRun, seqStep, halvesAfter, initialPermutation]
  | succ n ih =>
    obtain ⟨hp, hr, hlr, -, hf⟩ := ih (by omega)
    have hi : (seqRun T (n + 1) (acceptEncode pt s)).inst = .keyed sk := by simp [h]
    have h15 : BitVec.ofNat 4 n ≠ 15 := fun e => by
      have := congrArg BitVec.toNat e
      simp at this
      omega
    rw [seqRun_succ T (n + 1)]
    generalize seqRun T (n + 1) (acceptEncode pt s) = u at *
    simp only [seqStep, hp]
    refine ⟨by rw [seqRound_phase, hr, if_neg h15, hp], ?_, ?_, by simp, by simp [hf]⟩
    · rw [seqRound_rnd, hr, if_neg h15]
      apply BitVec.eq_of_toNat_eq
      simp [Nat.add_mod]
    · simp only [seqRound_l, seqRound_r, halvesAfter, ← hlr, roundStep, State.subkeys_keyed hi, hr]

/-- After all sixteen rounds only the `FINAL` transition is left (44_driver.md R177). -/
theorem seqRun_sixteen (T : Tables) {s : State} (pt : Word) {sk : SubkeyFile} (h : s.inst = .keyed sk) :
    (seqRun T 17 (acceptEncode pt s)).phase = .final ∧
    ((seqRun T 17 (acceptEncode pt s)).l, (seqRun T 17 (acceptEncode pt s)).r) = halvesAfter T sk pt 16 ∧
    (seqRun T 17 (acceptEncode pt s)).rsp = none ∧
    (seqRun T 17 (acceptEncode pt s)).free = s.free := by
  obtain ⟨hp, hr, hlr, -, hf⟩ := seqRun_rounds T pt h (show 15 < 16 by decide)
  have hi : (seqRun T (15 + 1) (acceptEncode pt s)).inst = .keyed sk := by simp [h]
  have h16 : halvesAfter T sk pt 16 = roundStep T (readSubkey sk (BitVec.ofNat 4 15)) (halvesAfter T sk pt 15) := rfl
  rw [seqRun_succ T 16, h16]
  generalize seqRun T (15 + 1) (acceptEncode pt s) = u at *
  simp only [seqStep, hp]
  refine ⟨by rw [seqRound_phase, hr]; rfl, ?_, by simp, by simp [hf]⟩
  rw [← hlr, seqRound_l, seqRound_r, State.subkeys_keyed hi, hr]
  rfl

/-- Everything a whole `ENCODE` leaves (44_driver.md R176): the ciphertext of R175, `PHASE = IDLE`, free values in the working
registers, and nothing else changed. -/
theorem seqRun_encode (T : Tables) {s : State} (pt : Word) {sk : SubkeyFile} (h : s.inst = .keyed sk) :
    seqRun T 18 (acceptEncode pt s) =
      { s with phase := .idle, rnd := Config.freeRnd s.free, l := Config.freeL s.free, r := Config.freeR s.free,
               blk := Config.freeBlk s.free, rsp := some ⟨0, encodeBlock T sk pt⟩, free := s.free + 1 } := by
  obtain ⟨hp, hlr, -, hf⟩ := seqRun_sixteen T pt h
  have hi : (seqRun T 17 (acceptEncode pt s)).inst = s.inst := by simp
  have hh : (seqRun T 17 (acceptEncode pt s)).host = s.host := by simp
  rw [seqRun_succ T 17]
  generalize seqRun T 17 (acceptEncode pt s) = u at *
  simp only [seqStep, hp]
  simp [seqFinal, State.answer, State.releaseRegisters, encodeBlock, hlr, hi, hh, hf]

end Sys2Proof.Machine
end

