-- ==== Sys2Proof/Laws/Ops.lean ====
section
/-! SUPPORT. What each shared operation can do, said once. -/

namespace Sys2Proof.Machine

/-- A success response and nothing else (00_scope.md 5.3). -/
theorem respond_eq (v : Word) (s : State) : respond v s = .next (s.answer ⟨0, v⟩) := rfl

/-- An error response and nothing else (60_exceptions.md R221). -/
theorem raise_eq (e : ErrCode) (s : State) : raise e s = .next (s.answer ⟨e.number, 0⟩) := rfl

/-- In range, the check is passed. -/
theorem withIndex_of_lt {idx bound : Nat} {s : State} {k : idx < bound → Result} (h : idx < bound) :
    withIndex idx bound s k = k h := by simp [withIndex, h]

/-- Out of range, `ERR_INDEX`. -/
theorem withIndex_of_ge {idx bound : Nat} {s : State} {k : idx < bound → Result} (h : bound ≤ idx) :
    withIndex idx bound s k = .next (s.answer ⟨2, 0⟩) := by
  simp [withIndex, Nat.not_lt.mpr h, raise_eq, ErrCode.number]

/-- Everything the index check can do. -/
theorem withIndex_cases {idx bound : Nat} {s t : State} {k : idx < bound → Result}
    (h : withIndex idx bound s k = .next t) :
    (∃ hi : idx < bound, k hi = .next t) ∨ (bound ≤ idx ∧ t = s.answer ⟨2, 0⟩) := by
  by_cases hi : idx < bound
  · exact .inl ⟨hi, by rwa [withIndex_of_lt hi] at h⟩
  · rw [withIndex_of_ge (Nat.le_of_not_lt hi)] at h
    exact .inr ⟨Nat.le_of_not_lt hi, (Host.Outcome.next.inj h).symm⟩

/-- Every error the hardware raises has a code of 1 to 4; the adapter's two have 8 and 9 (60_exceptions.md R215). -/
theorem ErrCode.number_ne_zero (e : ErrCode) : e.number ≠ 0 := by cases e <;> decide

/-- Distinct errors have distinct codes (60_exceptions.md R215). -/
theorem ErrCode.number_injective {e f : ErrCode} (h : e.number = f.number) : e = f := by
  revert h; cases e <;> cases f <;> decide

end Sys2Proof.Machine
end

