-- ==== Sys2Proof/Laws/Exec.lean ====
section
/-! SUPPORT. The inversion lemma of `exec`: everything a command can do. -/

namespace Sys2Proof.Machine

/-- A command answers with a legal response (60_exceptions.md R215, R221) and writes nothing else, or it is `LOADKEY` with
`KEYV = 0`, or `DISCARD`, or `ENCODE` with `KEYV = 1`. -/
theorem exec_cases {i : Instr} {s t : State} (h : exec i s = .next t) :
    (∃ x, t = s.answer x ∧ x.err.toNat ≤ 4 ∧ (x.err ≠ 0 → x.data = 0)) ∨
    (∃ a, i = .loadkey a ∧ s.inst = .empty ∧ t = { s with inst := .keyed (schedule a) }.answer ⟨0, 0⟩) ∨
    (i = .discard ∧ t = { s with inst := .empty }.answer ⟨0, 0⟩) ∨
    (∃ a sk, i = .encode a ∧ s.inst = .keyed sk ∧
      t = { s with phase := .idle, rnd := Config.freeRnd s.free, l := Config.freeL s.free, r := Config.freeR s.free,
                   blk := Config.freeBlk s.free, rsp := some ⟨0, encodeBlock Config.tables sk a⟩, free := s.free + 1 }) := by
  have ok : ∀ {v : Word}, respond v s = .next t → ∃ x, t = s.answer x ∧ x.err.toNat ≤ 4 ∧ (x.err ≠ 0 → x.data = 0) :=
    fun e => ⟨_, (Host.Outcome.next.inj e).symm, Nat.zero_le _, fun h => absurd rfl h⟩
  have err : ∀ {c : ErrCode}, c.number.toNat ≤ 4 → raise c s = .next t →
      ∃ x, t = s.answer x ∧ x.err.toNat ≤ 4 ∧ (x.err ≠ 0 → x.data = 0) :=
    fun hc e => ⟨_, (Host.Outcome.next.inj e).symm, hc, fun _ => rfl⟩
  have idx : ∀ {n b : Nat} {k : n < b → Result}, withIndex n b s k = .next t →
      (∀ hi, k hi = .next t → ∃ x, t = s.answer x ∧ x.err.toNat ≤ 4 ∧ (x.err ≠ 0 → x.data = 0)) →
      ∃ x, t = s.answer x ∧ x.err.toNat ≤ 4 ∧ (x.err ≠ 0 → x.data = 0) := fun e hk => by
    rcases withIndex_cases e with ⟨hi, e'⟩ | ⟨_, e'⟩
    · exact hk hi e'
    · exact ⟨_, e', by decide, fun _ => rfl⟩
  cases i with
  | loadkey a =>
    change execLoadkey a s = .next t at h
    unfold execLoadkey at h
    split at h
    · exact .inl (err (c := .keyLocked) (by decide) h)
    · exact .inr (.inl ⟨a, rfl, ‹_›, (Host.Outcome.next.inj h).symm⟩)
  | discard => exact .inr (.inr (.inl ⟨rfl, (Host.Outcome.next.inj h).symm⟩))
  | encode a =>
    change encodeWith Config.tables a s = .next t at h
    unfold encodeWith at h
    split at h
    · exact .inl (err (c := .noKey) (by decide) h)
    · rename_i sk hk
      exact .inr (.inr (.inr ⟨a, sk, rfl, hk, (Host.Outcome.next.inj h).symm.trans (seqRun_encode _ _ hk)⟩))
  | rdsubkey n =>
    refine .inl (idx h fun _ e => ?_)
    split at e
    · exact err (c := .noKey) (by decide) e
    · exact ok e
  | bbget32 n a => exact .inl (idx h fun _ e => ok e)
  | bbget48 n a => exact .inl (idx h fun _ e => ok e)
  | bbget64 n a => exact .inl (idx h fun _ e => ok e)
  | bbset32 n c a => exact .inl (idx h fun _ e => ok e)
  | bbset48 n c a => exact .inl (idx h fun _ e => ok e)
  | bbset64 n c a => exact .inl (idx h fun _ e => ok e)
  | rdtabE n => exact .inl (idx h fun _ e => ok e)
  | rdtabP n => exact .inl (idx h fun _ e => ok e)
  | status => exact .inl (ok h)
  | feistel a b => exact .inl (ok h)
  | expand a => exact .inl (ok h)
  | subst a => exact .inl (ok h)
  | permute a => exact .inl (ok h)
  | bbint32 a => exact .inl (ok h)
  | bbint48 a => exact .inl (ok h)
  | bbint64 a => exact .inl (ok h)
  | bbxor32 a b => exact .inl (ok h)
  | bbxor48 a b => exact .inl (ok h)
  | bbxor64 a b => exact .inl (ok h)
  | rdtabS n => exact .inl (ok h)

end Sys2Proof.Machine
end

