-- ==== Sys2Proof/Laws/Step.lean ====
section
/-! SUPPORT. Everything a step can do, event by event. -/

namespace Sys2Proof.Machine

variable {s : State}

/-- A reset comes before everything (70_reset_and_hazards.md R245). -/
theorem step_reset {rest : List HostEvent} (h : s.host = .reset :: rest) :
    step s = .next { s with host := rest }.applyReset := by
  simp [step, tick, h]

/-- Between commands the oldest command is run (20_memory.md R50). -/
theorem step_command {c : Command} {rest : List HostEvent} (hp : s.phase = .idle) (h : s.host = .command c :: rest) :
    step s = runCommand c { s with host := rest } := by
  simp only [step, tick, h, hp]

/-- Between commands with nothing presented only the response goes (10_state.md R28). -/
theorem step_nothing (hp : s.phase = .idle) (h : s.host = []) : step s = .next { s with rsp := none } := by
  simp only [step, tick, h, hp]

/-- In flight, with no reset, the sequencer moves on (44_driver.md R177; 70_reset_and_hazards.md R250). -/
theorem step_inFlight (hp : s.phase ≠ .idle) (h : ∀ rest, s.host ≠ .reset :: rest) :
    step s = .next (seqStep Config.tables s) := by
  unfold step tick
  split <;> simp_all

/-- A decoded command is executed. -/
theorem runCommand_of_decode {c : Command} {i : Instr} (h : decode c = .ok i) : runCommand c s = exec i s := by
  simp [runCommand, h]

/-- An illegal word is answered (30_encoding.md R71). -/
theorem runCommand_of_illegal {c : Command} {e : Illegal} (h : decode c = .error e) :
    runCommand c s = .next (s.answer ⟨1, 0⟩) := by
  simp [runCommand, h, raise, ErrCode.number]

/-- `cmd_ready` is 1 exactly when no command is in flight (10_state.md R27; log 6). -/
theorem cmdReady_iff : s.cmdReady = true ↔ s.phase = .idle := by
  simp [State.cmdReady]

end Sys2Proof.Machine
end

