-- ==== Sys2Proof/Laws/HostAdapter.lean ====
section
/-! SUPPORT. Everything one send of the host adapter can do. -/

namespace Sys2Proof.Machine

variable {α : Type} {s : State} (f : Word → α)

/-- A core that is not ready is sent nothing (45_system_and_host.md R198). -/
theorem sendCommand_of_not_ready {c : Command} (h : s.cmdReady = false) : sendCommand c f s = .unanswered s := by
  simp [sendCommand, h]

/-- A core that is ready executes the command, and the call's outcome is its response. -/
theorem sendCommand_of_ready {c : Command} {i : Instr} {t : State} {x : Response} (h : s.cmdReady = true)
    (hc : decode c = .ok i) (he : exec i s = .next t) (hx : t.rsp = some x) :
    sendCommand c f s = if x.err = 0 then .done (f x.data) t else .failed x.err t := by
  have hs : step { s with host := .command c :: s.host } = .next t :=
    (step_command (s := { s with host := .command c :: s.host }) (cmdReady_iff.mp h) rfl).trans
      ((runCommand_of_decode hc).trans he)
  rw [sendCommand, if_pos h, hs]
  simp only [hx]

end Sys2Proof.Machine
end

