-- ==== Sys2Proof/Laws/Operands.lean ====
section
/-! SUPPORT. What the block operations do, bit by bit. -/

namespace Sys2Proof.Machine

/-- The two bit numberings (00_scope.md R12): block index `i` is integer bit `W-1-i`. -/
theorem blockBit_eq_getLsbD {W : Nat} (v : BitVec W) {i : Nat} (h : i < W) :
    blockBit v i = v.getLsbD (W - 1 - i) := by
  simp [blockBit, BitVec.getMsbD, h]

theorem getLsbD_eq_blockBit {W : Nat} (v : BitVec W) {k : Nat} (h : k < W) :
    v.getLsbD k = blockBit v (W - 1 - k) := by
  rw [blockBit_eq_getLsbD v (by omega)]
  congr 1
  omega

/-- Two blocks with the same bits are the same block. -/
theorem block_ext {W : Nat} {u v : BitVec W} (h : ∀ i < W, blockBit u i = blockBit v i) : u = v := by
  apply BitVec.eq_of_getLsbD_eq
  intro k hk
  rw [getLsbD_eq_blockBit u hk, getLsbD_eq_blockBit v hk]
  exact h _ (by omega)

theorem getLsbD_blockOfBits (n : Nat) (f : Nat → Bool) (k : Nat) :
    (blockOfBits n f).getLsbD k = (decide (k < n) && f (n - 1 - k)) := by
  induction n generalizing k with
  | zero => simp [blockOfBits]
  | succ n ih =>
    cases k with
    | zero => simp [blockOfBits]
    | succ k =>
      rw [blockOfBits, BitVec.getLsbD_concat]
      simp only [Nat.succ_ne_zero, ↓reduceIte, Nat.add_one_sub_one, ih, Nat.add_lt_add_iff_right]
      by_cases hk : k < n
      · simp only [hk, decide_true, Bool.true_and]
        congr 1
        omega
      · simp [hk]

/-- The bits of a block are the ones it was made of. -/
@[simp] theorem blockBit_blockOfBits (n : Nat) (f : Nat → Bool) (i : Nat) :
    blockBit (blockOfBits n f) i = (decide (i < n) && f i) := by
  by_cases h : i < n
  · rw [blockBit_eq_getLsbD _ h, getLsbD_blockOfBits]
    have h1 : n - 1 - i < n := by omega
    have h2 : n - 1 - (n - 1 - i) = i := by omega
    simp [h, h1, h2]
  · simp [blockBit, BitVec.getMsbD, h]

/-- Bit-selection (41_tables.md R111) by block index. -/
theorem blockBit_select {n m : Nat} (T : Vector (BitVec 6) n) (s : BitVec m) {i : Nat} (h : i < n) :
    blockBit (select T s) i = blockBit s (T[i].toNat - 1) := by
  simp [select, h]

/-- Bit-selection never makes a 1 out of nothing. -/
theorem select_zero {n m : Nat} (T : Vector (BitVec 6) n) : select T (0#m) = 0#n := by
  apply block_ext
  intro i h
  rw [blockBit_select T _ h]
  simp [blockBit]

/-- `setbit` writes the bit at its index and no other (00_scope.md R12). -/
theorem blockBit_setBlockBit {W : Nat} (v : BitVec W) {i j : Nat} (c : Bool) (hi : i < W) (hj : j < W) :
    blockBit (setBlockBit v i c) j = if j = i then c else blockBit v j := by
  have hw : 0 < W := by omega
  rw [blockBit_eq_getLsbD _ hj, blockBit_eq_getLsbD _ hj, setBlockBit]
  have h1 : W - 1 - j < W := by omega
  by_cases hji : j = i
  · subst hji
    simp [h1]
  · have h2 : W - 1 - j < W - 1 - i ∨ ¬ (W - 1 - j - (W - 1 - i) = 0) := by omega
    simp only [BitVec.getLsbD_or, BitVec.getLsbD_and, BitVec.getLsbD_not, BitVec.getLsbD_shiftLeft, h1,
      decide_true, Bool.true_and, BitVec.getLsbD_one, BitVec.getLsbD_setWidth, BitVec.getLsbD_ofBool, hji, ↓reduceIte]
    rcases h2 with h2 | h2
    · simp [h2]
    · simp [h2]

/-- An operand has the bits of the operand word below its width (30_encoding.md R68). -/
theorem getLsbD_operand (W : Nat) (x : Word) (k : Nat) : (operand W x).getLsbD k = (decide (k < W) && x.getLsbD k) := by
  simp [operand, BitVec.getLsbD_setWidth]

/-- A result is zero-extended (30_encoding.md R69). -/
theorem toNat_result {W : Nat} (v : BitVec W) (h : W ≤ 64) : (result v).toNat = v.toNat := by
  have hv := v.isLt
  have : 2 ^ W ≤ 2 ^ 64 := Nat.pow_le_pow_right (by decide) h
  rw [result, BitVec.toNat_setWidth, Nat.mod_eq_of_lt (by omega)]

end Sys2Proof.Machine
end

