-- ==== Sys2Proof/Laws/PerInstr.lean ====
section
/-! SUPPORT. Per-instruction families: one lemma per constructor of Instr. -/

namespace Sys2Proof.Laws.WordInRow

open Sys2Proof

/-- The word the encoder gives an instruction is selected by the row of 30_encoding.md R76 that bears its mnemonic. -/
def Statement (i : Instr) : Prop :=
  ∃ row ∈ opcodeRows, row.mnemonic = i.mnemonic ∧ row.selects (encode i).word = true

/-- A row that leaves no field free selects its own word. -/
theorem selects_bare (op : BitVec 4) (wsel : BitVec 2) (mnemonic : String) :
    (OpcodeRow.mk mnemonic (cmdWord op wsel 0 false) 0xFFFF).selects (cmdWord op wsel 0 false) = true := by
  simp only [OpcodeRow.selects, beq_iff_eq]
  exact BitVec.and_allOnes

/-- The row's mask hides the fields it leaves free. -/
theorem selects_indexed (op : BitVec 4) (wsel : BitVec 2) (idx : Nat) (mnemonic : String) :
    (OpcodeRow.mk mnemonic (cmdWord op wsel 0 false) 0xFC0F).selects (cmdWord op wsel idx false) = true := by
  simp only [OpcodeRow.selects, beq_iff_eq]
  apply BitVec.eq_of_getLsbD_eq
  intro k hk
  rw [BitVec.getLsbD_and, getLsbD_cmdWord, getLsbD_cmdWord]
  interval_cases k <;> simp

/-- The same for the mask that also leaves `VAL` free. -/
theorem selects_indexed_val (op : BitVec 4) (wsel : BitVec 2) (idx : Nat) (val : Bool) (mnemonic : String) :
    (OpcodeRow.mk mnemonic (cmdWord op wsel 0 false) 0xFC07).selects (cmdWord op wsel idx val) = true := by
  simp only [OpcodeRow.selects, beq_iff_eq]
  apply BitVec.eq_of_getLsbD_eq
  intro k hk
  rw [BitVec.getLsbD_and, getLsbD_cmdWord, getLsbD_cmdWord]
  interval_cases k <;> simp

theorem status : Statement .status :=
  ⟨⟨"STATUS", 0x0000, 0xFFFF⟩, by simp [opcodeRows], rfl, selects_bare 0x0 0 _⟩

theorem loadkey (a : Word) : Statement (.loadkey a) :=
  ⟨⟨"LOADKEY", 0x1000, 0xFFFF⟩, by simp [opcodeRows], rfl, selects_bare 0x1 0 _⟩

theorem encode (a : Word) : Statement (.encode a) :=
  ⟨⟨"ENCODE", 0x2000, 0xFFFF⟩, by simp [opcodeRows], rfl, selects_bare 0x2 0 _⟩

theorem feistel (a b : Word) : Statement (.feistel a b) :=
  ⟨⟨"FEISTEL", 0x3000, 0xFFFF⟩, by simp [opcodeRows], rfl, selects_bare 0x3 0 _⟩

theorem expand (a : Word) : Statement (.expand a) :=
  ⟨⟨"EXPAND", 0x4000, 0xFFFF⟩, by simp [opcodeRows], rfl, selects_bare 0x4 0 _⟩

theorem subst (a : Word) : Statement (.subst a) :=
  ⟨⟨"SUBST", 0x5000, 0xFFFF⟩, by simp [opcodeRows], rfl, selects_bare 0x5 0 _⟩

theorem permute (a : Word) : Statement (.permute a) :=
  ⟨⟨"PERMUTE", 0x6000, 0xFFFF⟩, by simp [opcodeRows], rfl, selects_bare 0x6 0 _⟩

theorem rdsubkey (idx : Nat) : Statement (.rdsubkey idx) :=
  ⟨⟨"RDSUBKEY", 0x7000, 0xFC0F⟩, by simp [opcodeRows], rfl, selects_indexed 0x7 0 idx _⟩

theorem bbint32 (a : Word) : Statement (.bbint32 a) :=
  ⟨⟨"BBINT.32", 0x8000, 0xFFFF⟩, by simp [opcodeRows], rfl, selects_bare 0x8 0 _⟩

theorem bbint48 (a : Word) : Statement (.bbint48 a) :=
  ⟨⟨"BBINT.48", 0x8400, 0xFFFF⟩, by simp [opcodeRows], rfl, selects_bare 0x8 1 _⟩

theorem bbint64 (a : Word) : Statement (.bbint64 a) :=
  ⟨⟨"BBINT.64", 0x8800, 0xFFFF⟩, by simp [opcodeRows], rfl, selects_bare 0x8 2 _⟩

theorem bbget32 (idx : Nat) (a : Word) : Statement (.bbget32 idx a) :=
  ⟨⟨"BBGET.32", 0x9000, 0xFC0F⟩, by simp [opcodeRows], rfl, selects_indexed 0x9 0 idx _⟩

theorem bbget48 (idx : Nat) (a : Word) : Statement (.bbget48 idx a) :=
  ⟨⟨"BBGET.48", 0x9400, 0xFC0F⟩, by simp [opcodeRows], rfl, selects_indexed 0x9 1 idx _⟩

theorem bbget64 (idx : Nat) (a : Word) : Statement (.bbget64 idx a) :=
  ⟨⟨"BBGET.64", 0x9800, 0xFC0F⟩, by simp [opcodeRows], rfl, selects_indexed 0x9 2 idx _⟩

theorem bbset32 (idx : Nat) (val : Bool) (a : Word) : Statement (.bbset32 idx val a) :=
  ⟨⟨"BBSET.32", 0xA000, 0xFC07⟩, by simp [opcodeRows], rfl, selects_indexed_val 0xA 0 idx val _⟩

theorem bbset48 (idx : Nat) (val : Bool) (a : Word) : Statement (.bbset48 idx val a) :=
  ⟨⟨"BBSET.48", 0xA400, 0xFC07⟩, by simp [opcodeRows], rfl, selects_indexed_val 0xA 1 idx val _⟩

theorem bbset64 (idx : Nat) (val : Bool) (a : Word) : Statement (.bbset64 idx val a) :=
  ⟨⟨"BBSET.64", 0xA800, 0xFC07⟩, by simp [opcodeRows], rfl, selects_indexed_val 0xA 2 idx val _⟩

theorem bbxor32 (a b : Word) : Statement (.bbxor32 a b) :=
  ⟨⟨"BBXOR.32", 0xB000, 0xFFFF⟩, by simp [opcodeRows], rfl, selects_bare 0xB 0 _⟩

theorem bbxor48 (a b : Word) : Statement (.bbxor48 a b) :=
  ⟨⟨"BBXOR.48", 0xB400, 0xFFFF⟩, by simp [opcodeRows], rfl, selects_bare 0xB 1 _⟩

theorem bbxor64 (a b : Word) : Statement (.bbxor64 a b) :=
  ⟨⟨"BBXOR.64", 0xB800, 0xFFFF⟩, by simp [opcodeRows], rfl, selects_bare 0xB 2 _⟩

theorem discard : Statement .discard :=
  ⟨⟨"DISCARD", 0xC000, 0xFFFF⟩, by simp [opcodeRows], rfl, selects_bare 0xC 0 _⟩

theorem rdtabE (idx : Nat) : Statement (.rdtabE idx) :=
  ⟨⟨"RDTAB.E", 0xD000, 0xFC0F⟩, by simp [opcodeRows], rfl, selects_indexed 0xD 0 idx _⟩

theorem rdtabP (idx : Nat) : Statement (.rdtabP idx) :=
  ⟨⟨"RDTAB.P", 0xD400, 0xFC0F⟩, by simp [opcodeRows], rfl, selects_indexed 0xD 1 idx _⟩

theorem rdtabS (idx : Nat) : Statement (.rdtabS idx) :=
  ⟨⟨"RDTAB.S", 0xD800, 0xFC0F⟩, by simp [opcodeRows], rfl, selects_indexed 0xD 2 idx _⟩

end Sys2Proof.Laws.WordInRow
end

