-- ==== Sys2Proof/Tests/Slice0.lean ====
section
/-! SUPPORT. The session's own tests: ill-formed terms, words written out from the spec's encodings, the spec's worked examples
and derived vectors (95_test_vectors.md), and a witness for the hypotheses of every statement. -/

namespace Sys2Proof.Tests

open Sys2Proof Sys2Proof.Machine

/-! ## Helpers -/

/-- The response a command leaves, if it goes on. -/
def answerOf (x : Result) : Option Response :=
  match x with
  | .next t => t.rsp
  | .fault _ => none
  | .refused _ => none

/-- A core with the schedule of `K` loaded. -/
def keyed (K : Word) : State := { State.reset with inst := .keyed (schedule K) }

/-- The key of 42_key_schedule.md section 3. -/
def exampleKey : Word := 0x133457799BBCDFF1

/-- `s` with one command pending. -/
def pending (s : State) (w : BitVec 16) (a b : Word) : State := { s with host := [.command ⟨w, a, b⟩] }

/-! ## WellFormed: an ill-formed term for each check, which the check refuses (30_encoding.md R65) -/

theorem test_ill_formed_rdsubkey : Instr.wellFormed (.rdsubkey 64) = false := by decide
theorem test_ill_formed_bbget32 : Instr.wellFormed (.bbget32 64 0) = false := by decide
theorem test_ill_formed_bbget48 : Instr.wellFormed (.bbget48 64 0) = false := by decide
theorem test_ill_formed_bbget64 : Instr.wellFormed (.bbget64 64 0) = false := by decide
theorem test_ill_formed_bbset32 : Instr.wellFormed (.bbset32 64 true 0) = false := by decide
theorem test_ill_formed_bbset48 : Instr.wellFormed (.bbset48 64 true 0) = false := by decide
theorem test_ill_formed_bbset64 : Instr.wellFormed (.bbset64 64 true 0) = false := by decide
theorem test_ill_formed_rdtabE : Instr.wellFormed (.rdtabE 64) = false := by decide
theorem test_ill_formed_rdtabP : Instr.wellFormed (.rdtabP 64) = false := by decide
theorem test_ill_formed_rdtabS : Instr.wellFormed (.rdtabS 64) = false := by decide
theorem test_value_error_is_well_formed : Instr.wellFormed (.rdsubkey 63) = true := by decide

/-! ## Decoding: words written out bit by bit from 30_encoding.md R61 and R76, one per row, and illegal words (95_test_vectors.md 2.7) -/

theorem test_decode_status : decode ⟨0b0000000000000000, 5, 6⟩ = .ok (.status) := by decide
theorem test_decode_loadkey : decode ⟨0b0001000000000000, 5, 6⟩ = .ok (.loadkey 5) := by decide
theorem test_decode_encode : decode ⟨0b0010000000000000, 5, 6⟩ = .ok (.encode 5) := by decide
theorem test_decode_feistel : decode ⟨0b0011000000000000, 5, 6⟩ = .ok (.feistel 5 6) := by decide
theorem test_decode_expand : decode ⟨0b0100000000000000, 5, 6⟩ = .ok (.expand 5) := by decide
theorem test_decode_subst : decode ⟨0b0101000000000000, 5, 6⟩ = .ok (.subst 5) := by decide
theorem test_decode_permute : decode ⟨0b0110000000000000, 5, 6⟩ = .ok (.permute 5) := by decide
theorem test_decode_rdsubkey : decode ⟨0b0111000001000000, 5, 6⟩ = .ok (.rdsubkey 4) := by decide
theorem test_decode_bbint32 : decode ⟨0b1000000000000000, 5, 6⟩ = .ok (.bbint32 5) := by decide
theorem test_decode_bbint48 : decode ⟨0b1000010000000000, 5, 6⟩ = .ok (.bbint48 5) := by decide
theorem test_decode_bbint64 : decode ⟨0b1000100000000000, 5, 6⟩ = .ok (.bbint64 5) := by decide
theorem test_decode_bbget32 : decode ⟨0b1001000111110000, 5, 6⟩ = .ok (.bbget32 31 5) := by decide
theorem test_decode_bbget48 : decode ⟨0b1001010000010000, 5, 6⟩ = .ok (.bbget48 1 5) := by decide
theorem test_decode_bbget64 : decode ⟨0b1001101111110000, 5, 6⟩ = .ok (.bbget64 63 5) := by decide
theorem test_decode_bbset32 : decode ⟨0b1010000001011000, 5, 6⟩ = .ok (.bbset32 5 true 5) := by decide
theorem test_decode_bbset48 : decode ⟨0b1010011011110000, 5, 6⟩ = .ok (.bbset48 47 false 5) := by decide
theorem test_decode_bbset64 : decode ⟨0b1010101000001000, 5, 6⟩ = .ok (.bbset64 32 true 5) := by decide
theorem test_decode_bbxor32 : decode ⟨0b1011000000000000, 5, 6⟩ = .ok (.bbxor32 5 6) := by decide
theorem test_decode_bbxor48 : decode ⟨0b1011010000000000, 5, 6⟩ = .ok (.bbxor48 5 6) := by decide
theorem test_decode_bbxor64 : decode ⟨0b1011100000000000, 5, 6⟩ = .ok (.bbxor64 5 6) := by decide
theorem test_decode_discard : decode ⟨0b1100000000000000, 5, 6⟩ = .ok (.discard) := by decide
theorem test_decode_rdtabE : decode ⟨0b1101001011110000, 5, 6⟩ = .ok (.rdtabE 47) := by decide
theorem test_decode_rdtabP : decode ⟨0b1101010010000000, 5, 6⟩ = .ok (.rdtabP 8) := by decide
theorem test_decode_rdtabS : decode ⟨0b1101101100000000, 5, 6⟩ = .ok (.rdtabS 48) := by decide

/-- The illegal words of 95_test_vectors.md 2.7 are rejected. -/
theorem test_decode_illegal_words : ([0xE000, 0xF000, 0xFFFF, 0x0001, 0x0008, 0x0400, 0x1010, 0x2001,
    0x8C00, 0x8010, 0x9008, 0x9E00, 0xB010, 0xDC00].any fun w => (decode ⟨w, 5, 6⟩).isOk) = false := by decide +kernel
theorem test_illegal_word_is_answered : answerOf (step (pending (keyed 0) 0xFFFF 5 6)) = some ⟨1, 0⟩ := by decide

theorem test_decode_table_word : decodeTableWord 16 0x70F0 = some (.rdsubkey 15) := by decide
theorem test_decode_table_word_operands : decodeTableWord 144 (0x3000 + 2 ^ 16 * 7 + 2 ^ 80 * 9) = some (.feistel 7 9) := by decide
theorem test_first_instruction_runs :
    answerOf (step (State.reset.withFetchWord 16 0x7000)) = some ⟨3, 0⟩ := by decide

/-! ## BitBlock (95_test_vectors.md 2.1) -/

theorem test_bbint32_truncates : answerOf (exec (.bbint32 0x0000000123456789) State.reset) = some ⟨0, 0x23456789⟩ := by decide
theorem test_bbint48_truncates : answerOf (exec (.bbint48 0xFFFF123456789ABC) State.reset) = some ⟨0, 0x123456789ABC⟩ := by decide
theorem test_bbint64_identity : answerOf (exec (.bbint64 0xFFFFFFFFFFFFFFFF) State.reset) = some ⟨0, 0xFFFFFFFFFFFFFFFF⟩ := by decide
theorem test_bbget32_msb : answerOf (exec (.bbget32 0 0x80000000) State.reset) = some ⟨0, 1⟩ := by decide
theorem test_bbget32_index : answerOf (exec (.bbget32 32 0) State.reset) = some ⟨2, 0⟩ := by decide
theorem test_bbget48_lsb : answerOf (exec (.bbget48 47 1) State.reset) = some ⟨0, 1⟩ := by decide
theorem test_bbget48_index : answerOf (exec (.bbget48 48 0) State.reset) = some ⟨2, 0⟩ := by decide
theorem test_bbget64_second : answerOf (exec (.bbget64 1 0x8000000000000000) State.reset) = some ⟨0, 0⟩ := by decide
theorem test_bbget64_last : answerOf (exec (.bbget64 63 0xFFFFFFFFFFFFFFFE) State.reset) = some ⟨0, 0⟩ := by decide
theorem test_bbset32_sets : answerOf (exec (.bbset32 5 true 0) State.reset) = some ⟨0, 0x04000000⟩ := by decide
theorem test_bbset32_clears : answerOf (exec (.bbset32 0 false 0xFFFFFFFF) State.reset) = some ⟨0, 0x7FFFFFFF⟩ := by decide
theorem test_bbset48_clears : answerOf (exec (.bbset48 47 false 0xFFFFFFFFFFFF) State.reset) = some ⟨0, 0xFFFFFFFFFFFE⟩ := by decide
theorem test_bbset48_index : answerOf (exec (.bbset48 48 false 0) State.reset) = some ⟨2, 0⟩ := by decide
theorem test_bbset64_middle : answerOf (exec (.bbset64 32 true 0) State.reset) = some ⟨0, 0x80000000⟩ := by decide
theorem test_bbxor32_truncates : answerOf (exec (.bbxor32 0xAAAAAAAA12345678 0x5555555587654321) State.reset) = some ⟨0, 0x95511559⟩ := by decide
theorem test_bbxor48_mix : answerOf (exec (.bbxor48 0x7A15557A1555 0x1B02EFFC7072) State.reset) = some ⟨0, 0x6117BA866527⟩ := by decide
theorem test_bbxor48_truncates : answerOf (exec (.bbxor48 0xFFFF000000000000 0) State.reset) = some ⟨0, 0⟩ := by decide
theorem test_bbxor64_ones : answerOf (exec (.bbxor64 0x0123456789ABCDEF 0xFFFFFFFFFFFFFFFF) State.reset) = some ⟨0, 0xFEDCBA9876543210⟩ := by decide

/-! ## Tables (95_test_vectors.md 2.2), with TABLES_REF and TABLES_TOY -/

theorem test_rdtabE_ref : answerOf (rdtabE tablesRef 6 State.reset) = some ⟨0, 4⟩ := by decide
theorem test_rdtabE_toy : answerOf (rdtabE tablesToy 46 State.reset) = some ⟨0, 15⟩ := by decide +kernel
theorem test_rdtabP_ref : answerOf (rdtabP tablesRef 8 State.reset) = some ⟨0, 1⟩ := by decide
theorem test_rdtabP_toy : answerOf (rdtabP tablesToy 31 State.reset) = some ⟨0, 1⟩ := by decide +kernel
theorem test_rdtabS_ref : answerOf (rdtabS tablesRef 0x27 State.reset) = some ⟨0, 11⟩ := by decide
theorem test_rdtabS_toy : answerOf (rdtabS tablesToy 0x3F State.reset) = some ⟨0, 12⟩ := by decide +kernel
theorem test_rdtab_out_of_range : answerOf (exec (.rdtabE 48) State.reset) = some ⟨2, 0⟩ ∧
    answerOf (exec (.rdtabP 32) State.reset) = some ⟨2, 0⟩ := by decide

/-! ## Key schedule and lifecycle (95_test_vectors.md 2.4, 3.3; 42_key_schedule.md section 3) -/

theorem test_loadkey_stores_subkeys : (match exec (.loadkey exampleKey) State.reset with
    | .next t => t.keyv && t.subkeys[1] == 0x2BBCCDDE6FF8 && t.subkeys[15] == 0x2668AEF33779
    | _ => false) = true := by decide +kernel
theorem test_loadkey_locked : answerOf (exec (.loadkey 1) (keyed 0)) = some ⟨4, 0⟩ := by decide
theorem test_rdsubkey_reads : answerOf (exec (.rdsubkey 4) (keyed exampleKey)) = some ⟨0, 0x457799BBCDFF⟩ := by decide +kernel
theorem test_rdsubkey_index_before_key : answerOf (exec (.rdsubkey 16) State.reset) = some ⟨2, 0⟩ := by decide
theorem test_status_empty : answerOf (exec .status State.reset) = some ⟨0, 0x1000⟩ := by decide
theorem test_status_keyed : answerOf (exec .status (keyed 0)) = some ⟨0, 0x1001⟩ := by decide
theorem test_discard : (match exec .discard (keyed 0) with
    | .next t => !t.keyv && t.rsp == some ⟨0, 0⟩
    | _ => false) = true := by decide
theorem test_encode_nokey : answerOf (exec (.encode 0) State.reset) = some ⟨3, 0⟩ := by decide

/-! ## Round function and driver (95_test_vectors.md 2.5) -/

theorem test_expand_ref : expandHalf tablesRef 0xF0AAF0AA = 0x7A15557A1555 := by decide +kernel
theorem test_expand_toy : expandHalf tablesToy 0x89ABCDEF = 0x89ABCDEF89AB := by decide +kernel
theorem test_subst_ref : substitute tablesRef 0x6117BA866527 = 0x5A7AF862 := by decide +kernel
theorem test_subst_toy : substitute tablesToy 0x04000000003F = 0x5111111C := by decide +kernel
theorem test_permute_ref : permuteHalf tablesRef 0x12345678 = 0x6E34140E := by decide +kernel
theorem test_permute_toy : permuteHalf tablesToy 0x12345678 = 0x1E6A2C48 := by decide +kernel
theorem test_feistel_ref : feistel tablesRef 0x89ABCDEF 0x57799BBCDFF1 = 0xD9DF8A5C := by decide +kernel
theorem test_feistel_toy : feistel tablesToy 0x80000000 0 = 0x88A88889 := by decide +kernel

/-- The sequencer of R177 on the first trace's key and block. -/
theorem test_encode_ref : answerOf (encodeWith tablesRef 0x0123456789ABCDEF (keyed exampleKey)) = some ⟨0, 0xBD04E16CFBFD5B06⟩ := by
  decide +kernel
/-- The function of R175 on the third row of the ENCODE vectors. -/
theorem test_encode_toy : encodeBlock tablesToy (schedule 0xFFFFFFFFFFFFFFFF) 0xFFFFFFFFFFFFFFFF = 0x6528CD8FA2EBF290 := by
  decide +kernel

/-! ## Host adapter, cores, assembler -/

theorem test_parse_first_character_is_most_significant :
    parseBits 32 "10000000000000000000000000000000".toList = .ok 0x80000000 := by decide +kernel
theorem test_parse_bad_character :
    parseBits 32 "0b000000000000000000000000000000".toList = .error .invalidCharacter := by decide +kernel
theorem test_render : renderBits (5#8) = "00000101".toList := by decide
theorem test_host_new_bad_string : hostNew (.bits "01".toList) State.reset = .rejected .invalidLength State.reset := by decide
theorem test_assemble_pseudo : assemble ⟨"mix".toList, [], [1, 2]⟩ = .ok (encode (.bbxor48 1 2)) := by decide
theorem test_assemble_omitted_operand : assemble ⟨"bbxor.48".toList, [], [1]⟩ = .ok ⟨0xB400, 1, 0⟩ := by decide
theorem test_assemble_table : assemble ⟨"RDTAB.S".toList, [3, 0], []⟩ = .ok ⟨0xDB00, 0, 0⟩ := by decide

/-! ## State: a reset in flight, an idle edge -/

/-- An `ENCODE` in flight, with a reset pending (70_reset_and_hazards.md R247). -/
def resetInFlight : State := { acceptEncode 7 (keyed 0) with host := [.reset] }

/-- 45_system_and_host.md R198: in flight, even at the last transition, an adapter call sends nothing and takes no response. -/
theorem test_host_call_in_flight : hostDiscard { keyed 0 with phase := .final } = .unanswered { keyed 0 with phase := .final } := by rfl
theorem test_reset_in_flight : step resetInFlight = .next State.reset := by rfl
/-! ## Witnesses: a state and operands that meet the hypotheses of each statement, at the boundaries of its clauses -/

/-- `s` with the events `events` coming. -/
def facing (s : State) (events : List HostEvent) : State := { s with host := events }

/-- Any subkey file. -/
def someKeys : SubkeyFile := schedule exampleKey

/-- EncodingRoundTripsEveryWellFormedInstruction, AssembledLineIsTheEncodedInstruction: the last `IDX`, both `VAL`. -/
theorem witness_well_formed : Instr.wellFormed (.bbset48 63 true 5) = true ∧ Instr.wellFormed (.bbset64 0 false 5) = true := by decide

/-- DecodedWordIsTheWordOfItsInstruction, OperandWordsNeverSelectTheCommand. -/
theorem witness_decodes : decode ⟨0xA7F8, 5, 6⟩ = .ok (.bbset48 63 true 5) ∧ decode ⟨0xA7F9, 5, 6⟩ = .error .zeroField := by decide

/-- LegalWordsAreExactlyTheRowsOfTheTable: the last word of a row, and a word of no row. -/
theorem witness_rows : (⟨"BBSET.64", 0xA800, 0xFC07⟩ ∈ opcodeRows ∧ (⟨"BBSET.64", 0xA800, 0xFC07⟩ : OpcodeRow).selects 0xABF8 = true) ∧
    ∀ row ∈ opcodeRows, row.selects 0xE000 = false := by decide

/-- IllegalWordIsAnsweredAndChangesNothing: each clause of `IllegalWord`. -/
theorem witness_illegal_words : ([0xE000, 0xFFFF, 0x0001, 0x1007, 0x8C00, 0xAC00, 0xDC00, 0x0400, 0xC800, 0x1010, 0x83F0, 0x0008, 0x9008,
    0xD008].all fun w => decide (IllegalWord w)) = true ∧ (pending State.reset 0xE000 5 6).phase = .idle ∧
    (pending State.reset 0xE000 5 6).host = .command ⟨0xE000, 5, 6⟩ :: [] := by
  refine ⟨by decide +kernel, rfl, rfl⟩

/-- UnusedOperandBitsAreIgnored: each clause, and operands that differ above the width only. -/
theorem witness_unused_operands : cmdOp 0x2000 ∉ [0x3#4, 0xB#4] ∧ cmdOp 0xF000 ∉ [0x3#4, 0xB#4] ∧
    cmdOp 0x0000 ∈ [0x0#4, 0x7#4, 0xC#4, 0xD#4] ∧ cmdOp 0xDC00 ∈ [0x0#4, 0x7#4, 0xC#4, 0xD#4] ∧
    (0xFFFFFFFF00000001#64).toNat % 2 ^ 32 = (1#64).toNat % 2 ^ 32 ∧
    (0xFFFF000000000001#64).toNat % 2 ^ 48 = (1#64).toNat % 2 ^ 48 := by decide

/-- StepRunsTheDecodedInstruction. -/
theorem witness_step : (pending State.reset 0x2000 5 6).phase = .idle ∧
    (pending State.reset 0x2000 5 6).host = .command ⟨0x2000, 5, 6⟩ :: [] ∧ decode ⟨0x2000, 5, 6⟩ = .ok (.encode 5) ∧
    decodeTableWord 16 0x70F0 = some (.rdsubkey 15) := ⟨rfl, rfl, by decide, by decide⟩

/-- BlockIntegerConversionRoundTrips: the largest integer of a width. -/
theorem witness_in_range : 2 ^ 48 - 1 < 2 ^ 48 := by decide

/-- BbintTruncatesToTheWidth. -/
theorem witness_bbint : (64, Instr.bbint64, 0x8800#16) ∈
      [(32, Instr.bbint32, 0x8000#16), (48, Instr.bbint48, 0x8400#16), (64, Instr.bbint64, 0x8800#16)] ∧
    (cmdOp 0x8C00 = 0x8 ∧ 0x8C00#16 ∉ [0x8000#16, 0x8400#16, 0x8800#16]) ∧
    (cmdOp 0x8010 = 0x8 ∧ 0x8010#16 ∉ [0x8000#16, 0x8400#16, 0x8800#16]) :=
  ⟨by simp, by decide, by decide⟩

/-- BbgetReadsTheBitAtTheBlockIndex: the last index below the width, the first at it, the last of the field. -/
theorem witness_bbget : (48, Instr.bbget48, 0x9400#16) ∈
      [(32, Instr.bbget32, 0x9000#16), (48, Instr.bbget48, 0x9400#16), (64, Instr.bbget64, 0x9800#16)] ∧
    0 < 48 ∧ 47 < 48 ∧ 48 ≤ 48 ∧ 63 < 64 ∧ 48 ≤ 63 ∧
    (cmdOp 0x9C00 = 0x9 ∧ cmdWsel 0x9C00 = 0b11) ∧ (cmdOp 0x9008 = 0x9 ∧ cmdVal 0x9008 = true) ∧
    (cmdOp 0x9001 = 0x9 ∧ cmdZero 0x9001 ≠ 0) :=
  ⟨by simp, by decide, by decide, by decide, by decide, by decide, by decide, by decide, by decide⟩

/-- BbsetReplacesTheBitAtTheBlockIndex: the same boundaries. -/
theorem witness_bbset : (32, Instr.bbset32, 0xA000#16) ∈
      [(32, Instr.bbset32, 0xA000#16), (48, Instr.bbset48, 0xA400#16), (64, Instr.bbset64, 0xA800#16)] ∧
    0 < 32 ∧ 31 < 32 ∧ 32 ≤ 32 ∧ 63 < 64 ∧ 32 ≤ 63 ∧
    (cmdOp 0xAC00 = 0xA ∧ cmdWsel 0xAC00 = 0b11) ∧ (cmdOp 0xA004 = 0xA ∧ cmdZero 0xA004 ≠ 0) :=
  ⟨by simp, by decide, by decide, by decide, by decide, by decide, by decide, by decide⟩

/-- BbgetAfterBbsetReadsTheWrittenBit: the same index, and another. -/
theorem witness_bbget_after_bbset : (32, Instr.bbset32, Instr.bbget32) ∈ [(32, Instr.bbset32, Instr.bbget32),
      (48, Instr.bbset48, Instr.bbget48), (64, Instr.bbset64, Instr.bbget64)] ∧ 5 < 32 ∧ 31 < 32 ∧ 31 ≠ 5 ∧
    exec (.bbset32 5 true 0) State.reset = .next (State.reset.answer ⟨0, 0x04000000⟩) ∧
    (State.reset.answer ⟨0, 0x04000000⟩).rsp = some ⟨0, 0x04000000⟩ :=
  ⟨by simp, by decide, by decide, by decide, rfl, rfl⟩

/-- BbxorIsBitwiseAtTheWidth. -/
theorem witness_bbxor : (48, Instr.bbxor48, 0xB400#16) ∈
      [(32, Instr.bbxor32, 0xB000#16), (48, Instr.bbxor48, 0xB400#16), (64, Instr.bbxor64, 0xB800#16)] ∧
    (cmdOp 0xBC00 = 0xB ∧ 0xBC00#16 ∉ [0xB000#16, 0xB400#16, 0xB800#16]) := ⟨by simp, by decide⟩

/-- RdtabReadsTheEntry, EntriesReadBackAreInRange: the last index of each table, the first beyond it, the illegal forms. -/
theorem witness_rdtab : 63 < 64 ∧ 48 ≤ 48 ∧ 32 ≤ 32 ∧ 47 < 48 ∧ 31 < 32 ∧ (cmdOp 0xDC00 = 0xD ∧ cmdWsel 0xDC00 = 0b11) ∧
    (cmdOp 0xD808 = 0xD ∧ cmdVal 0xD808 = true) ∧ (cmdOp 0xD002 = 0xD ∧ cmdZero 0xD002 ≠ 0) := by decide

/-- ExpandIsInjective, PermuteIsABijectionKeepingOnes: both instantiations. -/
theorem witness_tables_ref : tablesRef.WF := by decide +kernel
theorem witness_tables_toy : tablesToy.WF := by decide +kernel

/-- The illegal forms of the bare commands (the last clause of their statements). -/
theorem witness_bare_illegal : (cmdOp 0x0008 = 0x0 ∧ 0x0008#16 ≠ 0x0000#16) ∧ (cmdOp 0x1010 = 0x1 ∧ 0x1010#16 ≠ 0x1000#16) ∧
    (cmdOp 0x2001 = 0x2 ∧ 0x2001#16 ≠ 0x2000#16) ∧ (cmdOp 0x3400 = 0x3 ∧ 0x3400#16 ≠ 0x3000#16) ∧
    (cmdOp 0x4FFF = 0x4 ∧ 0x4FFF#16 ≠ 0x4000#16) ∧ (cmdOp 0x5004 = 0x5 ∧ 0x5004#16 ≠ 0x5000#16) ∧
    (cmdOp 0x6800 = 0x6 ∧ 0x6800#16 ≠ 0x6000#16) ∧ (cmdOp 0xC3F0 = 0xC ∧ 0xC3F0#16 ≠ 0xC000#16) := by decide

/-- SubstLooksUpEachChunk: the last slot of `0x00000000003F`, its row and column. -/
theorem witness_subst_slot : 7 < 8 ∧ 63 = (0x3F#64).toNat / 2 ^ (42 - 6 * 7) % 64 ∧ (3 : Fin 4).val = 2 * (63 / 32) + 63 % 2 ∧
    (15 : Fin 16).val = 63 / 2 % 16 := by decide

/-- LoadkeyLoadsTheScheduleOnce, StatusReturnsVersionAndKeyv, RdsubkeyReadsTheSubkey, EncodeIsSixteenFeistelRounds: both values of
`KEYV`; the last index of `RDSUBKEY`, the first beyond it, and its illegal forms. -/
theorem witness_keyv : State.reset.inst = .empty ∧ (keyed exampleKey).inst = .keyed someKeys ∧ 15 < 16 ∧ 16 ≤ 16 ∧ 63 < 64 ∧
    (cmdOp 0x7400 = 0x7 ∧ cmdWsel 0x7400 ≠ 0) ∧ (cmdOp 0x7008 = 0x7 ∧ cmdVal 0x7008 = true) ∧
    (cmdOp 0x7001 = 0x7 ∧ cmdZero 0x7001 ≠ 0) := ⟨rfl, rfl, by decide, by decide, by decide, by decide, by decide, by decide⟩

/-- KeyScheduleConsequences: the bounds of its clauses. -/
theorem witness_schedule_bounds : 14 < 15 ∧ 15 < 16 ∧ (15 : Nat) ≤ 15 := by decide

/-- EncodeIsSixteenFeistelRounds: the halves of R172 and R173 solve its recurrence, whatever the key and the plaintext. -/
theorem witness_encode_recurrence (sk : SubkeyFile) (pt : Word) : ∃ L R : Nat → Half,
    (L 0).toNat = pt.toNat / 2 ^ 32 ∧ (R 0).toNat = pt.toNat % 2 ^ 32 ∧
    ∀ r : Fin 16, L (r + 1) = R r ∧ R (r + 1) = L r ^^^ feistel Config.tables (R r) sk[r] := by
  refine ⟨fun r => (halvesAfter Config.tables sk pt r).1, fun r => (halvesAfter Config.tables sk pt r).2, ?_, ?_, ?_⟩
  · change (pt.extractLsb' 32 32).toNat = _
    have := pt.isLt
    rw [BitVec.extractLsb'_toNat, Nat.shiftRight_eq_div_pow, Nat.mod_eq_of_lt (by omega)]
  · change (pt.extractLsb' 0 32).toNat = _
    rw [BitVec.extractLsb'_toNat, Nat.shiftRight_zero]
  · intro r
    refine ⟨rfl, ?_⟩
    change _ ^^^ feistel Config.tables _ (readSubkey sk (BitVec.ofNat 4 r)) = _
    have h : (BitVec.ofNat 4 r.val).toNat = r.val := by
      rw [BitVec.toNat_ofNat, Nat.mod_eq_of_lt r.isLt]
    simp only [readSubkey, h]
    rfl

/-- An `ENCODE` in flight in its round `rnd`, with the events `events` coming. -/
def inRound (rnd : BitVec 4) (events : List HostEvent) : State := { keyed exampleKey with phase := .round, rnd := rnd, host := events }

/-- SequencerTransitions: every phase in flight, rounds 14 and 15, nothing or a command pending. -/
theorem witness_sequencer : (∀ rest, (acceptEncode 7 (keyed 0)).host ≠ .reset :: rest) ∧ (acceptEncode 7 (keyed 0)).phase = .initial ∧
    (∀ rest, (inRound 15 [.command ⟨0, 0, 0⟩]).host ≠ .reset :: rest) ∧ (inRound 15 [.command ⟨0, 0, 0⟩]).phase = .round ∧
    (inRound 15 [.command ⟨0, 0, 0⟩]).inst = .keyed someKeys ∧ (inRound 15 []).rnd = 15 ∧ (inRound 14 []).rnd ≠ 15 ∧
    { inRound 15 [] with phase := .final }.phase = .final :=
  ⟨by simp [acceptEncode, keyed, State.reset], rfl, by simp [inRound], rfl, rfl, rfl, by decide, rfl⟩

/-- SequencerTransitions: the round's function value exists. -/
theorem witness_sequencer_round : ∀ r : Fin 16, r.val = (inRound 15 []).rnd.toNat →
    feistel Config.tables (inRound 15 []).r someKeys[15] = feistel Config.tables (inRound 15 []).r someKeys[r] := by
  intro r h
  have : r = 15 := Fin.ext h
  subst this
  rfl

/-- SequencerStepsComputeTheCommand. -/
theorem witness_sequencer_run : (keyed exampleKey).inst = .keyed someKeys ∧ (∀ rest, (keyed exampleKey).host ≠ .reset :: rest) ∧
    15 < 16 := ⟨rfl, by simp [keyed, State.reset], by decide⟩

/-- DiscardEndsTheInstance, OnlyTheNamedCommandsWriteState, EveryStepKeepsTheInvariant: a command that goes on. -/
theorem witness_discard : (keyed 0).phase = .idle ∧ exec .discard (keyed 0) = .next ({ keyed 0 with inst := .empty }.answer ⟨0, 0⟩) :=
  ⟨rfl, rfl⟩

/-- ResponseDependsOnKeyStateAndCommandOnly: two states that differ in a working register. -/
theorem witness_same_key_state : (pending (keyed 5) 0 0 0).phase = .idle ∧ ({ pending (keyed 5) 0 0 0 with l := 1 } : State).phase = .idle ∧
    (pending (keyed 5) 0 0 0).host = .command ⟨0, 0, 0⟩ :: [] ∧
    (pending (keyed 5) 0 0 0).inst = ({ pending (keyed 5) 0 0 0 with l := 1 } : State).inst ∧
    step (pending (keyed 5) 0 0 0) = .next ((keyed 5).answer ⟨0, 0x1001⟩) ∧
    step { pending (keyed 5) 0 0 0 with l := 1 } = .next (({ keyed 5 with l := 1 } : State).answer ⟨0, 0x1001⟩) :=
  ⟨rfl, rfl, rfl, rfl, rfl, rfl⟩

/-- AnErrorChangesNoState: a command that answers an error. -/
theorem witness_error : exec (.encode 0) State.reset = .next (State.reset.answer ⟨3, 0⟩) ∧
    (State.reset.answer ⟨3, 0⟩).rsp = some ⟨3, 0⟩ ∧ (3 : BitVec 4) ≠ 0 := ⟨rfl, rfl, by decide⟩

/-- OnlyTheNamedCommandsWriteState: a command of no named kind, and the named kinds. -/
theorem witness_other_command : exec .status State.reset = .next (State.reset.answer ⟨0, 0x1000⟩) ∧
    (∀ a, Instr.status ≠ .loadkey a) ∧ Instr.status ≠ .discard ∧ (∀ a, Instr.status ≠ .encode a) ∧
    (∃ a, Instr.encode 0 = .encode a) ∧ exec (.loadkey 1) State.reset = .next ((keyed 1).answer ⟨0, 0⟩) :=
  ⟨rfl, by simp, by simp, by simp, ⟨0, rfl⟩, rfl⟩

/-- EveryStepKeepsTheInvariant, ResetMeetsTheInvariant: a state with a key loaded and a command pending. -/
theorem witness_invariant : Inv (pending (keyed exampleKey) 0 0 0) ∧
    step (pending (keyed exampleKey) 0 0 0) = .next ((keyed exampleKey).answer ⟨0, 0x1001⟩) := by
  refine ⟨⟨rfl, ?_, ?_⟩, rfl⟩
  · intro sk h
    cases h
    exact ⟨exampleKey, by decide +kernel⟩
  · intro x h
    cases h

/-- EveryReachableStateMeetsTheInvariant: reset, and what one command makes of it. -/
theorem witness_reachable : Reachable State.reset ∧ Reachable ((keyed 1).answer ⟨0, 0⟩) :=
  ⟨.start [], .step (.start [.command ⟨0x1000, 1, 0⟩]) rfl⟩

/-- LoadedScheduleStaysUntilDiscardOrReset: a key, an illegal word, then a `DISCARD`; the step before the `DISCARD` is covered, and
with `n = 0` so is a `DISCARD` right behind the key. -/
theorem witness_loaded : (pending State.reset 0x1000 1 0).phase = .idle ∧ (pending State.reset 0x1000 1 0).inst = .empty ∧
    decode ⟨0x1000, 1, 0⟩ = .ok (.loadkey 1) ∧
    (∀ e ∈ [HostEvent.command ⟨0xE000, 0, 0⟩, .command ⟨0xC000, 0, 0⟩].take 1, ∃ d, e = .command d ∧ decode d ≠ .ok .discard) ∧
    (∀ e ∈ [HostEvent.command ⟨0xC000, 0, 0⟩].take 0, ∃ d, e = .command d ∧ decode d ≠ .ok .discard) ∧
    core.run 1 (pending State.reset 0x1000 1 0) = .next ((keyed 1).answer ⟨0, 0⟩) := by
  refine ⟨rfl, rfl, by decide, ?_, by simp, rfl⟩
  intro e he
  simp only [List.take_succ_cons, List.take_zero, List.mem_cons, List.not_mem_nil, or_false] at he
  exact ⟨_, he, by decide⟩

/-- EveryStepButDiscardAndResetKeepsTheSubkeys: between commands with `STATUS` next, and in flight with a `DISCARD` waiting. -/
theorem witness_keeps_subkeys :
    ((∀ rest, (pending (keyed exampleKey) 0 0 0).host ≠ .reset :: rest) ∧
      (∀ c rest, (pending (keyed exampleKey) 0 0 0).host = .command c :: rest → decode c ≠ .ok .discard) ∧
      (pending (keyed exampleKey) 0 0 0).inst = .keyed someKeys ∧
      step (pending (keyed exampleKey) 0 0 0) = .next ((keyed exampleKey).answer ⟨0, 0x1001⟩)) ∧
    ((inRound 15 [.command ⟨0xC000, 0, 0⟩]).phase ≠ .idle ∧
      (∀ rest, (inRound 15 [.command ⟨0xC000, 0, 0⟩]).host ≠ .reset :: rest) ∧
      (inRound 15 [.command ⟨0xC000, 0, 0⟩]).inst = .keyed someKeys ∧
      step (inRound 15 [.command ⟨0xC000, 0, 0⟩]) = .next (seqRound Config.tables (inRound 15 [.command ⟨0xC000, 0, 0⟩]))) := by
  refine ⟨⟨by simp [pending], ?_, rfl, rfl⟩, by decide, by simp [inRound], rfl, rfl⟩
  intro c rest h
  cases h
  decide

/-- ResetAbandonsWhateverWasRunning, NoCommandIsAcceptedInFlight, EveryAcceptedCommandGetsOneResponse: a reset in flight, a command in
flight, and a core with nothing pending. -/
theorem witness_in_flight : resetInFlight.host = .reset :: [] ∧ resetInFlight.phase ≠ .idle ∧
    (inRound 15 [.command ⟨0, 0, 0⟩]).phase ≠ .idle ∧ (inRound 15 [.command ⟨0, 0, 0⟩]).host = .command ⟨0, 0, 0⟩ :: [] ∧
    State.reset.phase = .idle ∧ State.reset.host = [] := ⟨rfl, by decide, by decide, rfl, rfl, rfl⟩

/-- OtherCoresAreUnaffected: the second of two cores steps. -/
theorem witness_two_cores : stepCore 1 [keyed 0, pending State.reset 0xC000 0 0] = .next [keyed 0, State.reset.answer ⟨0, 0⟩] ∧
    [keyed 0, State.reset][1]? = some State.reset ∧ (0 : Nat) ≠ 1 := ⟨rfl, rfl, by decide⟩

/-- ParseBitsAcceptsExactlyTheBitStrings, RenderAndParseAreInverse: a string too short, a bad character, a good string. -/
theorem witness_strings : ['0'].length ≠ 2 ∧ (['0', '2'].length = 2 ∧ ∃ c ∈ ['0', '2'], c ≠ '0' ∧ c ≠ '1') ∧
    (['0', '1'].length = 2 ∧ ∀ c ∈ ['0', '1'], c = '0' ∨ c = '1') ∧ parseBits 2 ['0', '1'] = .ok 1#2 := by
  refine ⟨by simp, ⟨rfl, '2', by simp, by simp, by simp⟩, ⟨rfl, by simp⟩, by decide⟩

/-- HostNewLoadsAValidKeyOrNothing, HostEncodeReturnsIntegerAndString: both kinds of string, both values of `KEYV`. -/
theorem witness_host : State.reset.phase = .idle ∧ parseBits 64 ['0'] = .error .invalidLength ∧
    parseBits 64 (List.replicate 64 '1') = .ok 0xFFFFFFFFFFFFFFFF ∧ State.reset.inst = .empty ∧
    (keyed exampleKey).inst = .keyed someKeys := ⟨rfl, by decide, by decide +kernel, rfl, rfl⟩

/-- HostCallsAreTheirCommands, HostSendsOnlyWhileReady: a core that is ready and one that is not; a good and a bad argument. -/
theorem witness_ready : (keyed exampleKey).cmdReady = true ∧ (inRound 15 []).cmdReady = false ∧
    hostWord (.int (2 ^ 64 + 5)) = .ok 5 ∧ hostWord (.bits ['0']) = .error .invalidLength := by decide

/-- AssembledLineIsTheEncodedInstruction: another case, and `b` left out. -/
theorem witness_line : "Bbxor.48".toList.map Char.toUpper = (disassemble (.bbxor48 5 0)).mnemonic ∧
    (∀ x ∈ (disassemble (.bbxor48 5 0)).operands.drop 1, x = 0) ∧ (disassemble (.bbxor48 5 0)).operands.take 1 = [5] :=
  ⟨by decide, by simp [disassemble], rfl⟩

end Sys2Proof.Tests
end

/-! # The state between steps (10_state.md)

What an accepted command and a step can do, said once; then the invariant, the life of the subkeys, who writes what, and what
the response depends on. -/

namespace Sys2Proof.Machine

/-! ## Responses and the state an `ENCODE` leaves -/

/-- A response the hardware may give (60_exceptions.md R215, R221); `ResponseLegal` asks it of the response channel. -/
def Response.Legal (x : Response) : Prop := x.err.toNat ≤ 4 ∧ (x.err ≠ 0 → x.data = 0)

/-- Success, whatever the data. -/
theorem Response.legal_success (v : Word) : (⟨0, v⟩ : Response).Legal := ⟨Nat.zero_le _, fun h => absurd rfl h⟩

theorem responseLegal_of_rsp_some {s : State} {x : Response} (h : s.rsp = some x) (hx : x.Legal) : ResponseLegal s := by
  intro y hy
  rw [h, Option.some.injEq] at hy
  exact hy ▸ hx

theorem responseLegal_of_rsp_none {s : State} (h : s.rsp = none) : ResponseLegal s := by
  intro y hy
  rw [h] at hy
  contradiction

/-- `s` after a successful `ENCODE` that answers `x` (44_driver.md R176): `seqFinal` with its result given. -/
def State.encoded (s : State) (x : Word) : State := { (s.answer ⟨0, x⟩).releaseRegisters with phase := .idle }

section encoded
variable (s : State) (x : Word)

@[simp] theorem State.encoded_inst : (s.encoded x).inst = s.inst := rfl
@[simp] theorem State.encoded_phase : (s.encoded x).phase = .idle := rfl
@[simp] theorem State.encoded_rsp : (s.encoded x).rsp = some ⟨0, x⟩ := rfl
@[simp] theorem State.encoded_host : (s.encoded x).host = s.host := rfl

end encoded

/-! ## The commands that look at `KEYV` -/

section keyState
variable {s : State} {sk : SubkeyFile}

/-- `LOADKEY` with no key loaded (42_key_schedule.md R131). -/
theorem exec_loadkey_of_empty (a : Word) (h : s.inst = .empty) :
    exec (.loadkey a) s = .next ({ s with inst := .keyed (schedule a) }.answer ⟨0, 0⟩) := by
  simp [exec, execLoadkey, h, respond_eq]

/-- `LOADKEY` with a key loaded (60_exceptions.md R219). -/
theorem exec_loadkey_of_keyed (a : Word) (h : s.inst = .keyed sk) :
    exec (.loadkey a) s = .next (s.answer ⟨4, 0⟩) := by
  simp [exec, execLoadkey, h, raise_eq, ErrCode.number]

/-- `ENCODE` with no key loaded (60_exceptions.md R218). -/
theorem exec_encode_of_empty (a : Word) (h : s.inst = .empty) : exec (.encode a) s = .next (s.answer ⟨3, 0⟩) := by
  simp [exec, execEncode, encodeWith, h, raise_eq, ErrCode.number]

/-- `ENCODE` with a key loaded (44_driver.md R176). -/
theorem exec_encode_of_keyed (a : Word) (h : s.inst = .keyed sk) :
    exec (.encode a) s = .next (s.encoded (encodeBlock Config.tables sk a)) := by
  have hrun : exec (.encode a) s = .next (seqRun Config.tables 18 (acceptEncode a s)) := by
    simp only [exec, execEncode, encodeWith, h]
  rw [hrun, seqRun_encode _ _ h]
  rfl

end keyState

/-- The subkeys as integers (42_key_schedule.md R130; 10_state.md R33). -/
theorem schedule_getElem_toNat (K : Word) (r : Fin 16) :
    (schedule K)[r].toNat = K.toNat / 2 ^ r.val % 2 ^ 48 := by
  simp [schedule, subkey, Nat.shiftRight_eq_div_pow]

/-! ## Everything an accepted command and a step can do -/

section inversion
variable {s t : State}

/-- Everything the `command` event can do: a legal response and nothing else, or a first `LOADKEY`, a `DISCARD`, or an
`ENCODE` under a loaded key. -/
theorem runCommand_cases {c : Command} (h : runCommand c s = .next t) :
    (∃ x : Response, x.Legal ∧ t = s.answer x) ∨
    (∃ a, s.inst = .empty ∧ t = { s with inst := .keyed (schedule a) }.answer ⟨0, 0⟩) ∨
    (decode c = .ok .discard ∧ t = { s with inst := .empty }.answer ⟨0, 0⟩) ∨
    (∃ x, t = s.encoded x) := by
  cases hd : decode c with
  | error e =>
    rw [runCommand_of_illegal hd] at h
    exact .inl ⟨_, ⟨by decide, fun _ => rfl⟩, (Host.Outcome.next.inj h).symm⟩
  | ok i =>
    rw [runCommand_of_decode hd] at h
    obtain ⟨x, ht, hx⟩ | ⟨a, -, hi, ht⟩ | ⟨rfl, ht⟩ | ⟨a, sk, -, -, ht⟩ := exec_cases h
    · exact .inl ⟨x, hx, ht⟩
    · exact .inr (.inl ⟨a, hi, ht⟩)
    · exact .inr (.inr (.inl ⟨rfl, ht⟩))
    · exact .inr (.inr (.inr ⟨_, ht⟩))

/-- Everything a step can do, by its event. -/
theorem step_cases (h : step s = .next t) :
    (∃ rest, s.host = .reset :: rest ∧ t = { s with host := rest }.applyReset) ∨
    (s.phase = .idle ∧ ∃ c rest, s.host = .command c :: rest ∧ runCommand c { s with host := rest } = .next t) ∨
    (s.phase = .idle ∧ s.host = [] ∧ t = { s with rsp := none }) ∨
    (s.phase ≠ .idle ∧ t = seqStep Config.tables s) := by
  by_cases hr : ∃ rest, s.host = .reset :: rest
  · obtain ⟨rest, hr⟩ := hr
    rw [step_reset hr] at h
    exact .inl ⟨rest, hr, (Host.Outcome.next.inj h).symm⟩
  by_cases hp : s.phase = .idle
  · match hh : s.host with
    | [] =>
      rw [step_nothing hp hh] at h
      exact .inr (.inr (.inl ⟨hp, rfl, hh ▸ (Host.Outcome.next.inj h).symm⟩))
    | .command c :: rest => exact .inr (.inl ⟨hp, c, rest, rfl, step_command hp hh ▸ h⟩)
    | .reset :: rest => exact absurd ⟨rest, hh⟩ hr
  · rw [step_inFlight hp (not_exists.mp hr)] at h
    exact .inr (.inr (.inr ⟨hp, (Host.Outcome.next.inj h).symm⟩))

/-- What every accepted command leaves: a response, the later events, and `PHASE = IDLE` where it was. -/
theorem runCommand_frame {c : Command} (h : runCommand c s = .next t) :
    (∃ x, t.rsp = some x) ∧ t.host = s.host ∧ (s.phase = .idle → t.phase = .idle) := by
  obtain ⟨x, -, rfl⟩ | ⟨a, -, rfl⟩ | ⟨-, rfl⟩ | ⟨x, rfl⟩ := runCommand_cases h
  · exact ⟨⟨x, rfl⟩, rfl, id⟩
  · exact ⟨⟨⟨0, 0⟩, rfl⟩, rfl, id⟩
  · exact ⟨⟨⟨0, 0⟩, rfl⟩, rfl, id⟩
  · exact ⟨⟨⟨0, x⟩, rfl⟩, rfl, fun _ => rfl⟩

/-- Between commands a step takes the oldest event, whichever it is. -/
theorem step_host_of_idle (hp : s.phase = .idle) (h : step s = .next t) : t.host = s.host.tail := by
  obtain ⟨rest, hh, rfl⟩ | ⟨-, c, rest, hh, hc⟩ | ⟨-, hh, rfl⟩ | ⟨hf, -⟩ := step_cases h
  · simp [hh]
  · obtain ⟨-, hhost, -⟩ := runCommand_frame hc
    simp [hh, hhost]
  · simp [hh]
  · exact absurd hp hf

end inversion

/-! ## The invariant -/

section invariant
variable {s t : State}

theorem scheduleOfSomeKey_of_keyed {K : Word} (h : s.inst = .keyed (schedule K)) : ScheduleOfSomeKey s := by
  intro sk hsk
  rw [h, Lifecycle.keyed.injEq] at hsk
  exact ⟨K, hsk ▸ schedule_getElem_toNat K⟩

theorem scheduleOfSomeKey_of_empty (h : s.inst = .empty) : ScheduleOfSomeKey s := by
  intro sk hsk
  rw [h] at hsk
  contradiction

/-- The state after any reset meets the invariant (70_reset_and_hazards.md R246). -/
theorem inv_applyReset (s : State) : Inv s.applyReset :=
  ⟨rfl, scheduleOfSomeKey_of_empty rfl, responseLegal_of_rsp_none rfl⟩

/-- An accepted command keeps the invariant: only `LOADKEY` installs a subkey file, and it installs a schedule. -/
theorem runCommand_keeps_inv {c : Command} (h : runCommand c s = .next t) (hs : Inv s) : Inv t := by
  obtain ⟨-, -, hphase⟩ := runCommand_frame h
  have hidle : t.phase = .idle := hphase hs.idle
  obtain ⟨x, hx, rfl⟩ | ⟨a, -, rfl⟩ | ⟨-, rfl⟩ | ⟨x, rfl⟩ := runCommand_cases h
  · exact ⟨hidle, hs.schedule, responseLegal_of_rsp_some rfl hx⟩
  · exact ⟨hidle, scheduleOfSomeKey_of_keyed rfl, responseLegal_of_rsp_some rfl (Response.legal_success 0)⟩
  · exact ⟨hidle, scheduleOfSomeKey_of_empty rfl, responseLegal_of_rsp_some rfl (Response.legal_success 0)⟩
  · exact ⟨hidle, hs.schedule, responseLegal_of_rsp_some rfl (Response.legal_success x)⟩

end invariant

/-- Settles O39, event by event: from a state with the invariant no step is a transition of an `ENCODE` in flight. -/
theorem everyStepKeepsTheInvariant : Obligations.EveryStepKeepsTheInvariant := by
  intro s t hs h
  obtain ⟨rest, -, rfl⟩ | ⟨-, c, rest, -, hc⟩ | ⟨-, -, rfl⟩ | ⟨hf, -⟩ := step_cases h
  · exact inv_applyReset _
  · exact runCommand_keeps_inv hc ⟨hs.idle, hs.schedule, hs.response⟩
  · exact ⟨hs.idle, hs.schedule, responseLegal_of_rsp_none rfl⟩
  · exact absurd hs.idle hf

/-- Settles O41, by induction on the run: it starts in a reset state, and every step keeps the invariant. -/
theorem everyReachableStateMeetsTheInvariant : Obligations.EveryReachableStateMeetsTheInvariant := by
  intro s hs
  induction hs with
  | start events => exact inv_applyReset { State.reset with host := events }
  | step _ h ih => exact everyStepKeepsTheInvariant _ _ ih h

/-! ## The life of the subkeys -/

/-- With a key loaded only `DISCARD` touches `KEYV` and `SK` (10_state.md R33): a second `LOADKEY` is refused. -/
theorem runCommand_keeps_subkeys {s t : State} {sk : SubkeyFile} {c : Command}
    (h : runCommand c s = .next t) (hk : s.inst = .keyed sk) (hc : decode c ≠ .ok .discard) : t.inst = .keyed sk := by
  obtain ⟨x, -, rfl⟩ | ⟨a, he, -⟩ | ⟨hd, -⟩ | ⟨x, rfl⟩ := runCommand_cases h
  · exact hk
  · simp [hk] at he
  · exact absurd hd hc
  · exact hk

/-- Settles O54, event by event. -/
theorem everyStepButDiscardAndResetKeepsTheSubkeys : Obligations.EveryStepButDiscardAndResetKeepsTheSubkeys := by
  intro s t sk hr hd hk h
  obtain ⟨rest, hh, -⟩ | ⟨hp, c, rest, hh, hc⟩ | ⟨-, -, rfl⟩ | ⟨hf, rfl⟩ := step_cases h
  · exact absurd hh (hr rest)
  · obtain ⟨-, -, hphase⟩ := runCommand_frame hc
    exact ⟨runCommand_keeps_subkeys hc hk (hd hp c rest hh), hphase⟩
  · exact ⟨hk, id⟩
  · exact ⟨(seqStep_inst _ _).trans hk, fun hp => absurd hp hf⟩

/-- A command the host may present without dropping the key: the premise of R33 on one event. -/
def KeepsKey (e : HostEvent) : Prop := ∃ c, e = .command c ∧ decode c ≠ .ok .discard

/-- A run of `n + 1` steps that goes on is a first step and a run of `n`. -/
theorem run_succ_next {M : Host.Core} {n : Nat} {x z : M.State} (h : M.run (n + 1) x = .next z) :
    ∃ y, M.step x = .next y ∧ M.run n y = .next z := by
  rw [Host.Core.run] at h
  split at h
  · exact ⟨_, ‹_›, h⟩
  · contradiction
  · contradiction

section keysKept
variable {s t : State} {sk : SubkeyFile}

/-- One step on a host whose next event, if there is one, keeps the key. -/
theorem step_keeps_subkeys (hp : s.phase = .idle) (hk : s.inst = .keyed sk) (hh : ∀ e ∈ s.host.head?, KeepsKey e)
    (h : step s = .next t) : t.inst = .keyed sk ∧ t.phase = .idle := by
  have noReset : ∀ rest, s.host ≠ .reset :: rest := by
    intro rest hr
    obtain ⟨c, hc, -⟩ := hh .reset (by simp [hr])
    contradiction
  have noDiscard : ∀ c rest, s.host = .command c :: rest → decode c ≠ .ok .discard := by
    intro c rest hc
    obtain ⟨d, hd, hne⟩ := hh (.command c) (by simp [hc])
    exact HostEvent.command.inj hd ▸ hne
  obtain ⟨hkey, hidle⟩ := everyStepButDiscardAndResetKeepsTheSubkeys s t sk noReset (fun _ => noDiscard) hk h
  exact ⟨hkey, hidle hp⟩

/-- Between commands with a key loaded, `n` steps on `n` events that keep the key keep it. -/
theorem run_keeps_subkeys {n : Nat} (hp : s.phase = .idle) (hk : s.inst = .keyed sk)
    (hh : ∀ e ∈ s.host.take n, KeepsKey e) (h : core.run n s = .next t) : t.inst = .keyed sk := by
  induction n generalizing s with
  | zero => exact Host.Outcome.next.inj h ▸ hk
  | succ n ih =>
    obtain ⟨u, hu, hrun⟩ := run_succ_next h
    have hnext : ∀ e ∈ s.host.head?, KeepsKey e := fun e he => hh e (by cases hs : s.host <;> simp_all)
    have hlater : ∀ e ∈ u.host.take n, KeepsKey e := by
      intro e he
      rw [step_host_of_idle hp hu] at he
      exact hh e (by cases hs : s.host <;> simp_all)
    obtain ⟨huk, hup⟩ := step_keeps_subkeys hp hk hnext hu
    exact ih hup huk hlater hrun

end keysKept

/-- Settles O42: the first step loads the schedule, and the further ones keep it. -/
theorem loadedScheduleStaysUntilDiscardOrReset : Obligations.LoadedScheduleStaysUntilDiscardOrReset := by
  intro s c K rest hp he hh hc n t hrest hrun
  obtain ⟨u, hu, hrun⟩ := run_succ_next hrun
  have hload := exec_loadkey_of_empty (s := { s with host := rest }) K he
  rw [← runCommand_of_decode hc, ← step_command hp hh] at hload
  cases hu.symm.trans hload
  refine ⟨schedule K, run_keeps_subkeys ?idle rfl ?events hrun, schedule_getElem_toNat K⟩
  case idle => exact hp
  case events => exact hrest

/-! ## Who writes what -/

/-- Settles O35, by what the command did: its response only, or what `LOADKEY`, `DISCARD` or `ENCODE` writes. -/
theorem onlyTheNamedCommandsWriteState : Obligations.OnlyTheNamedCommandsWriteState := by
  intro i s t h
  obtain ⟨x, rfl, -⟩ | ⟨a, rfl, -, rfl⟩ | ⟨rfl, rfl⟩ | ⟨a, sk, rfl, -, rfl⟩ := exec_cases h
  · exact ⟨fun _ _ _ => rfl, fun _ => rfl, fun _ => ⟨rfl, rfl, id⟩⟩
  · exact ⟨fun hl _ _ => absurd rfl (hl a), fun _ => rfl, by simp⟩
  · exact ⟨fun _ hd _ => absurd rfl hd, fun _ => rfl, by simp⟩
  · exact ⟨fun _ _ he => absurd rfl (he a), by simp, fun _ => ⟨rfl, rfl, fun _ => rfl⟩⟩

/-! ## What the response depends on -/

/-- Two results that go on, with the same response, the same `KEYV` and `SK`, and the same `PHASE`. -/
def SameVisible (p q : Result) : Prop :=
  ∃ t u : State, p = .next t ∧ q = .next u ∧ t.rsp = u.rsp ∧ t.inst = u.inst ∧ t.phase = u.phase

section sameVisible
variable {s₁ s₂ : State}

theorem sameVisible_answer (x : Response) (hi : s₁.inst = s₂.inst) (hp : s₁.phase = s₂.phase) :
    SameVisible (.next (s₁.answer x)) (.next (s₂.answer x)) := ⟨_, _, rfl, rfl, rfl, hi, hp⟩

theorem sameVisible_withIndex {n b : Nat} {k₁ k₂ : n < b → Result} (hi : s₁.inst = s₂.inst) (hp : s₁.phase = s₂.phase)
    (h : ∀ hn, SameVisible (k₁ hn) (k₂ hn)) : SameVisible (withIndex n b s₁ k₁) (withIndex n b s₂ k₂) := by
  by_cases hn : n < b
  · rw [withIndex_of_lt hn, withIndex_of_lt hn]
    exact h hn
  · rw [withIndex_of_ge (Nat.le_of_not_lt hn), withIndex_of_ge (Nat.le_of_not_lt hn)]
    exact sameVisible_answer _ hi hp

/-- No command looks at the state beyond `KEYV` and `SK` (10_state.md R30): only `LOADKEY`, `ENCODE`, `RDSUBKEY` and `STATUS` look
at the state at all. -/
theorem exec_sameVisible (i : Instr) (hi : s₁.inst = s₂.inst) (hp : s₁.phase = s₂.phase) :
    SameVisible (exec i s₁) (exec i s₂) := by
  have answered (x : Response) := sameVisible_answer x hi hp
  have indexed {n b : Nat} {v : n < b → Word} :
      SameVisible (withIndex n b s₁ fun hn => respond (v hn) s₁) (withIndex n b s₂ fun hn => respond (v hn) s₂) :=
    sameVisible_withIndex hi hp fun _ => answered _
  cases i with
  | loadkey a =>
    cases hk : s₂.inst with
    | empty =>
      rw [exec_loadkey_of_empty a hk, exec_loadkey_of_empty a (hi.trans hk)]
      exact sameVisible_answer _ rfl hp
    | keyed sk =>
      rw [exec_loadkey_of_keyed a hk, exec_loadkey_of_keyed a (hi.trans hk)]
      exact answered _
  | encode a =>
    cases hk : s₂.inst with
    | empty =>
      rw [exec_encode_of_empty a hk, exec_encode_of_empty a (hi.trans hk)]
      exact answered _
    | keyed sk =>
      rw [exec_encode_of_keyed a hk, exec_encode_of_keyed a (hi.trans hk)]
      exact ⟨_, _, rfl, rfl, rfl, hi, rfl⟩
  | rdsubkey n =>
    refine sameVisible_withIndex hi hp fun hn => ?_
    rw [hi]
    cases s₂.inst with
    | empty => exact answered _
    | keyed sk => exact answered _
  | status =>
    have hw : statusWord s₁ = statusWord s₂ := by simp only [statusWord, State.keyv, hi]
    change SameVisible (respond (statusWord s₁) s₁) (respond (statusWord s₂) s₂)
    rw [hw]
    exact answered _
  | discard => exact sameVisible_answer _ rfl hp
  | bbget32 n a | bbget48 n a | bbget64 n a | rdtabE n | rdtabP n => exact indexed
  | bbset32 n c a | bbset48 n c a | bbset64 n c a => exact indexed
  | feistel a b | bbxor32 a b | bbxor48 a b | bbxor64 a b => exact answered _
  | expand a | subst a | permute a | bbint32 a | bbint48 a | bbint64 a | rdtabS n => exact answered _

/-- An illegal word is answered alike in every state, so the whole `command` event looks at `KEYV` and `SK` only. -/
theorem runCommand_sameVisible (c : Command) (hi : s₁.inst = s₂.inst) (hp : s₁.phase = s₂.phase) :
    SameVisible (runCommand c s₁) (runCommand c s₂) := by
  cases hd : decode c with
  | error e =>
    rw [runCommand_of_illegal hd, runCommand_of_illegal hd]
    exact sameVisible_answer _ hi hp
  | ok i =>
    rw [runCommand_of_decode hd, runCommand_of_decode hd]
    exact exec_sameVisible i hi hp

/-- The `command` event is total (70_reset_and_hazards.md R253): of `runCommand_sameVisible`, that the results go on. -/
theorem runCommand_total (c : Command) (s : State) : ∃ t, runCommand c s = .next t := by
  obtain ⟨t, -, ht, -⟩ := runCommand_sameVisible (s₁ := s) c rfl rfl
  exact ⟨t, ht⟩

end sameVisible

/-- Settles O34: each step runs the command on its own state without that command, and the two runs agree. -/
theorem responseDependsOnKeyStateAndCommandOnly : Obligations.ResponseDependsOnKeyStateAndCommandOnly := by
  intro s₁ s₂ t₁ t₂ c rest₁ rest₂ hp₁ hp₂ hh₁ hh₂ hi h₁ h₂
  rw [step_command hp₁ hh₁] at h₁
  rw [step_command hp₂ hh₂] at h₂
  obtain ⟨u₁, u₂, hu₁, hu₂, hsame⟩ := runCommand_sameVisible
    (s₁ := { s₁ with host := rest₁ }) (s₂ := { s₂ with host := rest₂ }) c hi (hp₁.trans hp₂.symm)
  rw [Host.Outcome.next.inj (h₁.symm.trans hu₁), Host.Outcome.next.inj (h₂.symm.trans hu₂)]
  exact hsame

/-- Settles O45: the command event is total and leaves a response, and an idle edge clears the channel. -/
theorem everyAcceptedCommandGetsOneResponse : Obligations.EveryAcceptedCommandGetsOneResponse := by
  refine ⟨fun s c rest hp hh => ?_, fun s hp hh => step_nothing hp hh⟩
  obtain ⟨t, ht⟩ := runCommand_total c { s with host := rest }
  obtain ⟨⟨x, hx⟩, hhost, hphase⟩ := runCommand_frame ht
  exact ⟨t, x, (step_command hp hh).trans ht, hx, hhost, hphase hp⟩

end Sys2Proof.Machine

/-! # The order of commands and several cores (20_memory.md)

A step is the execution of the command it accepts, and a step of one core writes that core's state only. -/

namespace Sys2Proof.Machine

/-! ## The command a step runs -/

/-- Between commands, a pending command that decodes is executed on the state without it (20_memory.md R50). -/
theorem step_of_decode {s : State} {c : Command} {rest : List HostEvent} {i : Instr} (hp : s.phase = .idle)
    (hh : s.host = .command c :: rest) (hd : decode c = .ok i) : step s = exec i { s with host := rest } :=
  (step_command hp hh).trans (runCommand_of_decode hd)

/-- The decoder of table bits is `decode` on the command of those bits, the name of the illegal clause forgotten. -/
theorem decodeTableWord_eq_some {nbits w : Nat} {i : Instr} :
    decodeTableWord nbits w = some i ↔ decode (Command.ofTableWord nbits w) = .ok i := by
  unfold decodeTableWord
  cases decode (Command.ofTableWord nbits w) with
  | ok j => simp
  | error e => simp

/-- Settles O8: the pending command is accepted and runs, and `withFetchWord` makes a state with one pending. -/
theorem stepRunsTheDecodedInstruction : Obligations.StepRunsTheDecodedInstruction := by
  refine ⟨fun s c rest i hp hh hd => step_of_decode hp hh hd, fun s nbits w i hd => ?_⟩
  exact step_of_decode (s := s.withFetchWord nbits w) (rest := s.host) rfl rfl (decodeTableWord_eq_some.mp hd)

/-! ## Several cores -/

/-- Everything a step of core `k` can do when it goes on: nothing where `k` is no core's number, and else core `k`'s own
step, its result put in its place (20_memory.md R54). -/
theorem stepCore_cases {k : Nat} {cores cores' : List State} (h : stepCore k cores = .next cores') :
    (cores[k]? = none ∧ cores' = cores) ∨
    (∃ s t, cores[k]? = some s ∧ step s = .next t ∧ cores' = cores.set k t) := by
  unfold stepCore at h
  split at h
  · exact .inl ⟨‹_›, (Host.Outcome.next.inj h).symm⟩
  · split at h
    · exact .inr ⟨_, _, ‹_›, ‹_›, (Host.Outcome.next.inj h).symm⟩
    · contradiction
    · contradiction

/-- Settles O46: replacing one element of a list keeps its length and every other element. -/
theorem otherCoresAreUnaffected : Obligations.OtherCoresAreUnaffected := by
  intro k cores cores' h
  obtain ⟨hk, rfl⟩ | ⟨s, t, hk, ht, rfl⟩ := stepCore_cases h
  · exact ⟨rfl, fun _ _ => rfl, fun s hs => by simp [hk] at hs⟩
  · obtain ⟨hlt, -⟩ := List.getElem?_eq_some_iff.mp hk
    refine ⟨List.length_set, fun j hj => List.getElem?_set_ne hj.symm, fun u hu => ?_⟩
    cases hk.symm.trans hu
    exact ⟨t, ht, List.getElem?_set_self hlt⟩

end Sys2Proof.Machine

/-! # The command words (30_encoding.md)

The decoder reads a command's fields and puts its operand words in. Three facts carry the rest: the decoder undoes the encoder,
the word of whatever decodes is the encoder's, and every word that a row of R76 selects is the word of a command of that row. -/

namespace Sys2Proof

/-! ## Operand words -/

/-- The instruction with `a` and `b` in the places of its operand words. -/
def Instr.withOperands (a b : Word) : Instr → Instr
  | .status => .status
  | .loadkey _ => .loadkey a
  | .encode _ => .encode a
  | .feistel _ _ => .feistel a b
  | .expand _ => .expand a
  | .subst _ => .subst a
  | .permute _ => .permute a
  | .rdsubkey idx => .rdsubkey idx
  | .bbint32 _ => .bbint32 a
  | .bbint48 _ => .bbint48 a
  | .bbint64 _ => .bbint64 a
  | .bbget32 idx _ => .bbget32 idx a
  | .bbget48 idx _ => .bbget48 idx a
  | .bbget64 idx _ => .bbget64 idx a
  | .bbset32 idx val _ => .bbset32 idx val a
  | .bbset48 idx val _ => .bbset48 idx val a
  | .bbset64 idx val _ => .bbset64 idx val a
  | .bbxor32 _ _ => .bbxor32 a b
  | .bbxor48 _ _ => .bbxor48 a b
  | .bbxor64 _ _ => .bbxor64 a b
  | .discard => .discard
  | .rdtabE idx => .rdtabE idx
  | .rdtabP idx => .rdtabP idx
  | .rdtabS idx => .rdtabS idx

@[simp] theorem Instr.mnemonic_withOperands (a b : Word) (i : Instr) : (i.withOperands a b).mnemonic = i.mnemonic := by
  cases i <;> rfl

section map
variable (f : Instr → Instr) (w : BitVec 16)

theorem ifUnusedZero_map (z : Bool) (x : Except Illegal Instr) : (ifUnusedZero z x).map f = ifUnusedZero z (x.map f) := by
  cases z <;> rfl

theorem bareCommand_map (i : Instr) : (bareCommand w i).map f = bareCommand w (f i) := ifUnusedZero_map f _ _

theorem byWidth_map (i32 i48 i64 : Instr) : (byWidth w i32 i48 i64).map f = byWidth w (f i32) (f i48) (f i64) := by
  unfold byWidth
  split <;> rfl

theorem byTable_map (iE iP iS : Instr) : (byTable w iE iP iS).map f = byTable w (f iE) (f iP) (f iS) := by
  unfold byTable
  split <;> rfl

end map

/-- Other operand words change the operands of what is decoded and nothing else (30_encoding.md R60). -/
theorem decode_withOperands (w : BitVec 16) (a b a' b' : Word) :
    decode ⟨w, a', b'⟩ = (decode ⟨w, a, b⟩).map (Instr.withOperands a' b') := by
  unfold decode
  dsimp only
  split
  · rfl
  split
  case h_15 => rfl
  all_goals
    simp only [ifUnusedZero_map, bareCommand_map, byWidth_map, byTable_map]
    rfl

/-- Settles O5: the two decodings differ by `Instr.withOperands`, which keeps the mnemonic and every rejection. -/
theorem operandWordsNeverSelectTheCommand : Obligations.OperandWordsNeverSelectTheCommand := by
  intro w a b a' b'
  have h := decode_withOperands w a b a' b'
  refine ⟨fun i hi => ⟨i.withOperands a' b', ?_, i.mnemonic_withOperands a' b'⟩, fun e he => ?_⟩
  · rw [h, hi]
    rfl
  · rw [h, he]
    rfl

/-- `cmd_b` appears in the rows of `FEISTEL` and `BBXOR` only (30_encoding.md R63). -/
theorem decode_b_irrelevant {w : BitVec 16} (a b b' : Word) (h : cmdOp w ∉ [0x3#4, 0xB#4]) :
    decode ⟨w, a, b⟩ = decode ⟨w, a, b'⟩ := by
  unfold decode
  dsimp only
  split
  · rfl
  split
  case h_4 | h_12 => simp_all
  all_goals rfl

/-- `cmd_a` does not appear in the rows of `STATUS`, `RDSUBKEY`, `DISCARD` and `RDTAB` (30_encoding.md R63). -/
theorem decode_a_irrelevant {w : BitVec 16} (a a' b : Word) (h : cmdOp w ∈ [0x0#4, 0x7#4, 0xC#4, 0xD#4]) :
    decode ⟨w, a, b⟩ = decode ⟨w, a', b⟩ := by
  unfold decode
  dsimp only
  split
  · rfl
  split
  case h_1 | h_8 | h_13 | h_14 => rfl
  all_goals simp_all

/-! ## Decoding an encoding -/

section fields
variable {w : BitVec 16} {i j k : Instr}

@[simp] theorem ifUnusedZero_true (x : Except Illegal Instr) : ifUnusedZero true x = x := rfl

@[simp] theorem bareCommand_of_zero (hsel : cmdWsel w = 0#2) (hidx : cmdIdx w = 0#6) (hval : cmdVal w = false) :
    bareCommand w i = .ok i := by
  simp [bareCommand, hsel, hidx, hval]

@[simp] theorem byWidth_of_wsel_zero (h : cmdWsel w = 0#2) : byWidth w i j k = .ok i := by simp [byWidth, h]
@[simp] theorem byWidth_of_wsel_one (h : cmdWsel w = 1#2) : byWidth w i j k = .ok j := by simp [byWidth, h]
@[simp] theorem byWidth_of_wsel_two (h : cmdWsel w = 2#2) : byWidth w i j k = .ok k := by simp [byWidth, h]
@[simp] theorem byTable_of_tsel_zero (h : cmdWsel w = 0#2) : byTable w i j k = .ok i := by simp [byTable, h]
@[simp] theorem byTable_of_tsel_one (h : cmdWsel w = 1#2) : byTable w i j k = .ok j := by simp [byTable, h]
@[simp] theorem byTable_of_tsel_two (h : cmdWsel w = 2#2) : byTable w i j k = .ok k := by simp [byTable, h]

end fields

theorem toNat_ofNat_of_idxFits {idx : Nat} (h : idxFits idx = true) : (BitVec.ofNat 6 idx).toNat = idx := by
  rw [BitVec.toNat_ofNat, Nat.mod_eq_of_lt (of_decide_eq_true h)]

/-- Settles O1: the fields of the encoder's word are the ones it was built of, and only `IDX` could be cut short. -/
theorem encodingRoundTripsEveryWellFormedInstruction : Obligations.EncodingRoundTripsEveryWellFormedInstruction := by
  intro i h
  cases i with
  | status | loadkey a | encode a | feistel a b | expand a | subst a | permute a | discard => simp [encode, decode]
  | bbint32 a | bbint48 a | bbint64 a | bbxor32 a b | bbxor48 a b | bbxor64 a b => simp [encode, decode]
  | rdsubkey idx | bbget32 idx a | bbget48 idx a | bbget64 idx a | bbset32 idx val a | bbset48 idx val a | bbset64 idx val a
  | rdtabE idx | rdtabP idx | rdtabS idx =>
    have hidx := toNat_ofNat_of_idxFits h
    simp [encode, decode, -BitVec.toNat_ofNat, hidx]

/-- A command with an instruction's word decodes to that instruction, with the command's own operand words. -/
theorem decode_of_word_eq {i : Instr} {c : Command} (hi : i.wellFormed = true) (hw : (encode i).word = c.word) :
    decode c = .ok (i.withOperands c.a c.b) := by
  obtain ⟨w, a, b⟩ := c
  subst hw
  rw [decode_withOperands _ (encode i).a (encode i).b]
  exact congrArg (Except.map _) (encodingRoundTripsEveryWellFormedInstruction i hi)

/-- Whatever decodes has the word the encoder gives it: the fields its row leaves out are zero (30_encoding.md R70). -/
theorem encode_word_of_decode {c : Command} {i : Instr} (h : decode c = .ok i) : (encode i).word = c.word := by
  have hz := cmdZero_of_decode_ok h
  rw [← cmdWord_fields c.word hz]
  simp only [decode, hz, ne_eq, not_true_eq_false, if_false] at h
  split at h
  case h_1 | h_2 | h_3 | h_4 | h_5 | h_6 | h_7 | h_13 =>
    rename_i hop
    obtain ⟨rfl, hsel, hidx, hval⟩ := bareCommand_ok h
    rw [hop, hsel, hidx, hval]
    rfl
  case h_8 =>
    rename_i hop
    obtain ⟨hb, h⟩ := ifUnusedZero_ok h
    obtain ⟨hsel, hval⟩ : cmdWsel c.word = 0#2 ∧ cmdVal c.word = false := by simpa using hb
    cases h
    rw [hop, hsel, hval]
    rfl
  case h_9 | h_12 =>
    rename_i hop
    obtain ⟨hb, h⟩ := ifUnusedZero_ok h
    obtain ⟨hidx, hval⟩ : cmdIdx c.word = 0#6 ∧ cmdVal c.word = false := by simpa using hb
    rw [hop, hidx, hval]
    obtain ⟨hsel, rfl⟩ | ⟨hsel, rfl⟩ | ⟨hsel, rfl⟩ := byWidth_ok h <;> rw [hsel] <;> rfl
  case h_10 =>
    rename_i hop
    obtain ⟨hb, h⟩ := ifUnusedZero_ok h
    have hval : cmdVal c.word = false := by simpa using hb
    rw [hop, hval]
    obtain ⟨hsel, rfl⟩ | ⟨hsel, rfl⟩ | ⟨hsel, rfl⟩ := byWidth_ok h <;> rw [hsel] <;> rfl
  case h_11 =>
    rename_i hop
    rw [hop]
    obtain ⟨hsel, rfl⟩ | ⟨hsel, rfl⟩ | ⟨hsel, rfl⟩ := byWidth_ok h <;> rw [hsel] <;> rfl
  case h_14 =>
    rename_i hop
    obtain ⟨hb, h⟩ := ifUnusedZero_ok h
    have hval : cmdVal c.word = false := by simpa using hb
    rw [hop, hval]
    obtain ⟨hsel, rfl⟩ | ⟨hsel, rfl⟩ | ⟨hsel, rfl⟩ := byTable_ok h <;> rw [hsel] <;> rfl
  case h_15 => contradiction

/-! ## Illegal words -/

section rejected
variable {w : BitVec 16} {i j k : Instr}

theorem ifUnusedZero_eq_error {z : Bool} {x : Except Illegal Instr} :
    (∃ e, ifUnusedZero z x = .error e) ↔ z = false ∨ ∃ e, x = .error e := by
  cases z <;> simp [ifUnusedZero]

theorem bareCommand_eq_error :
    (∃ e, bareCommand w i = .error e) ↔ cmdWsel w ≠ 0 ∨ cmdIdx w ≠ 0 ∨ cmdVal w = true := by
  simp [bareCommand, ifUnusedZero_eq_error, or_assoc, imp_iff_not_or]

theorem byWidth_eq_error : (∃ e, byWidth w i j k = .error e) ↔ cmdWsel w = 0b11 := by
  unfold byWidth
  generalize cmdWsel w = wsel
  split
  case h_4 => exact iff_of_true ⟨_, rfl⟩ (by decide +revert)
  all_goals simp

theorem byTable_eq_error : (∃ e, byTable w i j k = .error e) ↔ cmdWsel w = 0b11 := by
  unfold byTable
  generalize cmdWsel w = tsel
  split
  case h_4 => exact iff_of_true ⟨_, rfl⟩ (by decide +revert)
  all_goals simp

end rejected

theorem reservedOp_of_not_mem : ∀ op : BitVec 4,
    op ∉ [0x0#4, 0x1#4, 0x2#4, 0x3#4, 0x4#4, 0x5#4, 0x6#4, 0x7#4, 0x8#4, 0x9#4, 0xA#4, 0xB#4, 0xC#4, 0xD#4] →
    op = 0xE ∨ op = 0xF := by decide

/-- The decoder rejects exactly the words of 30_encoding.md R71: row by row, what its check refuses is a clause of the rule. -/
theorem decode_eq_error_iff (c : Command) : (∃ e, decode c = .error e) ↔ IllegalWord c.word := by
  unfold decode
  dsimp only
  split
  case isTrue hz => exact iff_of_true ⟨_, rfl⟩ (.inr (.inl hz))
  case isFalse hz =>
    rw [not_not] at hz
    split
    case h_15 => exact iff_of_true ⟨_, rfl⟩ (.inl (reservedOp_of_not_mem _ (by simp_all)))
    all_goals
      rename_i hop
      simp [IllegalWord, hop, hz, ifUnusedZero_eq_error, bareCommand_eq_error, byWidth_eq_error, byTable_eq_error,
        imp_iff_not_or, or_comm]

/-! ## From a row to its commands -/

/-- Every word the row selects is the word of a well-formed instruction with the row's mnemonic. -/
def OpcodeRow.SelectsItsCommands (row : OpcodeRow) : Prop :=
  ∀ w, row.selects w = true → ∃ i : Instr, i.wellFormed = true ∧ i.mnemonic = row.mnemonic ∧ (encode i).word = w

section masks
variable (v w : BitVec 16)

theorem cmdOp_and : cmdOp (v &&& w) = cmdOp v &&& cmdOp w := BitVec.extractLsb'_and
theorem cmdWsel_and : cmdWsel (v &&& w) = cmdWsel v &&& cmdWsel w := BitVec.extractLsb'_and
theorem cmdVal_and : cmdVal (v &&& w) = (cmdVal v && cmdVal w) := BitVec.getLsbD_and
theorem cmdZero_and : cmdZero (v &&& w) = cmdZero v &&& cmdZero w := BitVec.extractLsb'_and

end masks

section selects
variable {row : OpcodeRow} {w : BitVec 16}

theorem OpcodeRow.selects_iff : row.selects w = true ↔ w &&& row.mask = row.value := beq_iff_eq

/-- A mask that covers `OP`, `WSEL` and `ZERO` leaves only `IDX` and `VAL` to the word. -/
theorem cmdWord_of_selects (h : row.selects w = true) (hop : cmdOp row.mask = BitVec.allOnes 4)
    (hsel : cmdWsel row.mask = BitVec.allOnes 2) (hzero : cmdZero row.mask = BitVec.allOnes 3) (hz : cmdZero row.value = 0#3) :
    cmdWord (cmdOp row.value) (cmdWsel row.value) (cmdIdx w).toNat (cmdVal w) = w := by
  rw [← OpcodeRow.selects_iff.mp h, cmdOp_and, cmdWsel_and, hop, hsel, BitVec.and_allOnes, BitVec.and_allOnes]
  apply cmdWord_fields
  rw [← hz, ← OpcodeRow.selects_iff.mp h, cmdZero_and, hzero, BitVec.and_allOnes]

theorem idxFits_toNat (idx : BitVec 6) : idxFits idx.toNat = true := decide_eq_true idx.isLt

/-- A row without a free field selects one word. -/
theorem selectsItsCommands_bare (i : Instr) (hmask : row.mask = 0xFFFF)
    (hi : i.wellFormed = true ∧ i.mnemonic = row.mnemonic ∧ (encode i).word = row.value) : row.SelectsItsCommands := by
  intro w h
  obtain ⟨hwf, hm, hv⟩ := hi
  refine ⟨i, hwf, hm, ?_⟩
  rw [hv, ← OpcodeRow.selects_iff.mp h, hmask]
  exact BitVec.and_allOnes

/-- A row with `IDX` free. -/
theorem selectsItsCommands_indexed (f : Nat → Instr) (hmask : row.mask = 0xFC0F) (hz : cmdZero row.value = 0#3)
    (hv : cmdVal row.value = false)
    (hf : ∀ idx, (f idx).wellFormed = idxFits idx ∧ (f idx).mnemonic = row.mnemonic ∧
      (encode (f idx)).word = cmdWord (cmdOp row.value) (cmdWsel row.value) idx false) : row.SelectsItsCommands := by
  intro w h
  obtain ⟨hwf, hm, he⟩ := hf (cmdIdx w).toNat
  have hval : cmdVal w = false := by
    rw [← hv, ← OpcodeRow.selects_iff.mp h, cmdVal_and, hmask]
    exact (Bool.and_true _).symm
  refine ⟨_, hwf.trans (idxFits_toNat _), hm, ?_⟩
  rw [he, ← hval]
  exact cmdWord_of_selects h (hmask ▸ rfl) (hmask ▸ rfl) (hmask ▸ rfl) hz

/-- A row with `IDX` and `VAL` free. -/
theorem selectsItsCommands_indexed_val (f : Nat → Bool → Instr) (hmask : row.mask = 0xFC07) (hz : cmdZero row.value = 0#3)
    (hf : ∀ idx val, (f idx val).wellFormed = idxFits idx ∧ (f idx val).mnemonic = row.mnemonic ∧
      (encode (f idx val)).word = cmdWord (cmdOp row.value) (cmdWsel row.value) idx val) : row.SelectsItsCommands := by
  intro w h
  obtain ⟨hwf, hm, he⟩ := hf (cmdIdx w).toNat (cmdVal w)
  refine ⟨_, hwf.trans (idxFits_toNat _), hm, he.trans ?_⟩
  exact cmdWord_of_selects h (hmask ▸ rfl) (hmask ▸ rfl) (hmask ▸ rfl) hz

end selects

theorem opcodeRows_selectTheirCommands : ∀ row ∈ opcodeRows, row.SelectsItsCommands := by
  simp only [opcodeRows, List.forall_mem_cons, List.not_mem_nil, false_implies, implies_true, and_true]
  exact ⟨selectsItsCommands_bare .status rfl ⟨rfl, rfl, rfl⟩,
    selectsItsCommands_bare (.loadkey 0) rfl ⟨rfl, rfl, rfl⟩,
    selectsItsCommands_bare (.encode 0) rfl ⟨rfl, rfl, rfl⟩,
    selectsItsCommands_bare (.feistel 0 0) rfl ⟨rfl, rfl, rfl⟩,
    selectsItsCommands_bare (.expand 0) rfl ⟨rfl, rfl, rfl⟩,
    selectsItsCommands_bare (.subst 0) rfl ⟨rfl, rfl, rfl⟩,
    selectsItsCommands_bare (.permute 0) rfl ⟨rfl, rfl, rfl⟩,
    selectsItsCommands_indexed .rdsubkey rfl rfl rfl fun _ => ⟨rfl, rfl, rfl⟩,
    selectsItsCommands_bare (.bbint32 0) rfl ⟨rfl, rfl, rfl⟩,
    selectsItsCommands_bare (.bbint48 0) rfl ⟨rfl, rfl, rfl⟩,
    selectsItsCommands_bare (.bbint64 0) rfl ⟨rfl, rfl, rfl⟩,
    selectsItsCommands_indexed (.bbget32 · 0) rfl rfl rfl fun _ => ⟨rfl, rfl, rfl⟩,
    selectsItsCommands_indexed (.bbget48 · 0) rfl rfl rfl fun _ => ⟨rfl, rfl, rfl⟩,
    selectsItsCommands_indexed (.bbget64 · 0) rfl rfl rfl fun _ => ⟨rfl, rfl, rfl⟩,
    selectsItsCommands_indexed_val (.bbset32 · · 0) rfl rfl fun _ _ => ⟨rfl, rfl, rfl⟩,
    selectsItsCommands_indexed_val (.bbset48 · · 0) rfl rfl fun _ _ => ⟨rfl, rfl, rfl⟩,
    selectsItsCommands_indexed_val (.bbset64 · · 0) rfl rfl fun _ _ => ⟨rfl, rfl, rfl⟩,
    selectsItsCommands_bare (.bbxor32 0 0) rfl ⟨rfl, rfl, rfl⟩,
    selectsItsCommands_bare (.bbxor48 0 0) rfl ⟨rfl, rfl, rfl⟩,
    selectsItsCommands_bare (.bbxor64 0 0) rfl ⟨rfl, rfl, rfl⟩,
    selectsItsCommands_bare .discard rfl ⟨rfl, rfl, rfl⟩,
    selectsItsCommands_indexed .rdtabE rfl rfl rfl fun _ => ⟨rfl, rfl, rfl⟩,
    selectsItsCommands_indexed .rdtabP rfl rfl rfl fun _ => ⟨rfl, rfl, rfl⟩,
    selectsItsCommands_indexed .rdtabS rfl rfl rfl fun _ => ⟨rfl, rfl, rfl⟩⟩

/-! ## The rows and the decoder -/

/-- The family `Laws.WordInRow` for every instruction. -/
theorem wordInRow (i : Instr) : Laws.WordInRow.Statement i := by
  cases i with
  | status => exact Laws.WordInRow.status
  | loadkey a => exact Laws.WordInRow.loadkey a
  | encode a => exact Laws.WordInRow.encode a
  | feistel a b => exact Laws.WordInRow.feistel a b
  | expand a => exact Laws.WordInRow.expand a
  | subst a => exact Laws.WordInRow.subst a
  | permute a => exact Laws.WordInRow.permute a
  | rdsubkey idx => exact Laws.WordInRow.rdsubkey idx
  | bbint32 a => exact Laws.WordInRow.bbint32 a
  | bbint48 a => exact Laws.WordInRow.bbint48 a
  | bbint64 a => exact Laws.WordInRow.bbint64 a
  | bbget32 idx a => exact Laws.WordInRow.bbget32 idx a
  | bbget48 idx a => exact Laws.WordInRow.bbget48 idx a
  | bbget64 idx a => exact Laws.WordInRow.bbget64 idx a
  | bbset32 idx val a => exact Laws.WordInRow.bbset32 idx val a
  | bbset48 idx val a => exact Laws.WordInRow.bbset48 idx val a
  | bbset64 idx val a => exact Laws.WordInRow.bbset64 idx val a
  | bbxor32 a b => exact Laws.WordInRow.bbxor32 a b
  | bbxor48 a b => exact Laws.WordInRow.bbxor48 a b
  | bbxor64 a b => exact Laws.WordInRow.bbxor64 a b
  | discard => exact Laws.WordInRow.discard
  | rdtabE idx => exact Laws.WordInRow.rdtabE idx
  | rdtabP idx => exact Laws.WordInRow.rdtabP idx
  | rdtabS idx => exact Laws.WordInRow.rdtabS idx

theorem opcodeRows_mnemonics_nodup : (opcodeRows.map OpcodeRow.mnemonic).Nodup := by decide

section rows
variable {p q : OpcodeRow} {c : Command}

theorem row_eq_of_mnemonic_eq (hp : p ∈ opcodeRows) (hq : q ∈ opcodeRows) (h : p.mnemonic = q.mnemonic) : p = q :=
  List.inj_on_of_nodup_map opcodeRows_mnemonics_nodup hp hq h

theorem decode_of_selects (hp : p ∈ opcodeRows) (h : p.selects c.word = true) :
    ∃ i, decode c = .ok i ∧ i.mnemonic = p.mnemonic := by
  obtain ⟨i, hi, hm, hw⟩ := opcodeRows_selectTheirCommands p hp c.word h
  exact ⟨_, decode_of_word_eq hi hw, (Instr.mnemonic_withOperands _ _ i).trans hm⟩

theorem exists_row_of_decode {i : Instr} (h : decode c = .ok i) :
    ∃ p ∈ opcodeRows, p.mnemonic = i.mnemonic ∧ p.selects c.word = true := by
  rw [← encode_word_of_decode h]
  exact wordInRow i

theorem selects_iff_decode (hp : p ∈ opcodeRows) :
    p.selects c.word = true ↔ ∃ i, decode c = .ok i ∧ i.mnemonic = p.mnemonic := by
  refine ⟨decode_of_selects hp, ?_⟩
  rintro ⟨i, hi, hm⟩
  obtain ⟨q, hq, hqm, hsel⟩ := exists_row_of_decode hi
  exact row_eq_of_mnemonic_eq hq hp (hqm.trans hm) ▸ hsel

theorem exists_selects_iff_decode : (∃ p ∈ opcodeRows, p.selects c.word = true) ↔ ∃ i, decode c = .ok i := by
  constructor
  · rintro ⟨p, hp, h⟩
    obtain ⟨i, hi, -⟩ := decode_of_selects hp h
    exact ⟨i, hi⟩
  · rintro ⟨i, hi⟩
    obtain ⟨p, hp, -, h⟩ := exists_row_of_decode hi
    exact ⟨p, hp, h⟩

theorem no_row_selects_iff_rejected : (∀ p ∈ opcodeRows, p.selects c.word = false) ↔ ∃ e, decode c = .error e := by
  have h := not_congr (exists_selects_iff_decode (c := c))
  cases hd : decode c with
  | ok i => simpa [hd] using h
  | error e => simpa [hd] using h

/-- A word that two rows select would decode to both their mnemonics. -/
theorem row_eq_of_selects {w : BitVec 16} (hp : p ∈ opcodeRows) (hq : q ∈ opcodeRows)
    (hpw : p.selects w = true) (hqw : q.selects w = true) : p = q := by
  obtain ⟨i, hi, him⟩ := decode_of_selects (c := ⟨w, 0, 0⟩) hp hpw
  obtain ⟨j, hj, hjm⟩ := decode_of_selects (c := ⟨w, 0, 0⟩) hq hqw
  cases hi.symm.trans hj
  exact row_eq_of_mnemonic_eq hp hq (him.symm.trans hjm)

theorem opcodeRows_disjoint : opcodeRows.Pairwise fun p q => ∀ w, ¬ (p.selects w = true ∧ q.selects w = true) := by
  refine (List.Nodup.of_map _ opcodeRows_mnemonics_nodup).imp_of_mem ?_
  rintro p q hp hq hne w ⟨hpw, hqw⟩
  exact hne (row_eq_of_selects hp hq hpw hqw)

end rows

/-! ## The list of the legal words -/

/-- The words a row selects: its `OP` and `WSEL`, with those values of `IDX` and `VAL` that the row lets through. -/
def OpcodeRow.words (row : OpcodeRow) : List (BitVec 16) :=
  ((List.finRange 64 ×ˢ [false, true]).map fun (idx, val) => cmdWord (cmdOp row.value) (cmdWsel row.value) idx.val val).filter
    row.selects

theorem OpcodeRow.nodup_words (row : OpcodeRow) : row.words.Nodup := by
  refine List.Nodup.filter _ (List.Nodup.map ?_ ((List.nodup_finRange 64).product (by decide)))
  rintro ⟨i, u⟩ ⟨j, v⟩ h
  have hidx : BitVec.ofNat 6 i.val = BitVec.ofNat 6 j.val := by simpa only [cmdIdx_cmdWord] using congrArg cmdIdx h
  have hval : u = v := by simpa only [cmdVal_cmdWord] using congrArg cmdVal h
  have hij : i.val = j.val := by
    rw [← toNat_ofNat_of_idxFits (decide_eq_true i.isLt), hidx, toNat_ofNat_of_idxFits (decide_eq_true j.isLt)]
  rw [hval, Fin.ext hij]

theorem opcodeRows_masks : ∀ row ∈ opcodeRows, cmdOp row.mask = BitVec.allOnes 4 ∧ cmdWsel row.mask = BitVec.allOnes 2 ∧
    cmdZero row.mask = BitVec.allOnes 3 ∧ cmdZero row.value = 0#3 := by decide

theorem OpcodeRow.mem_words {row : OpcodeRow} (hrow : row ∈ opcodeRows) {w : BitVec 16} :
    w ∈ row.words ↔ row.selects w = true := by
  simp only [OpcodeRow.words, List.mem_filter, and_iff_right_iff_imp, List.mem_map]
  intro h
  obtain ⟨hop, hsel, hzero, hz⟩ := opcodeRows_masks row hrow
  exact ⟨(⟨(cmdIdx w).toNat, (cmdIdx w).isLt⟩, cmdVal w), by simp, cmdWord_of_selects h hop hsel hzero hz⟩

/-- The legal words (30_encoding.md R76), row after row. -/
def legalWords : List (BitVec 16) := opcodeRows.flatMap OpcodeRow.words

theorem nodup_legalWords : legalWords.Nodup := by
  refine List.nodup_flatMap.mpr ⟨fun row _ => row.nodup_words, opcodeRows_disjoint.imp_of_mem ?_⟩
  intro p q hp hq h w hpw hqw
  exact h w ⟨(OpcodeRow.mem_words hp).mp hpw, (OpcodeRow.mem_words hq).mp hqw⟩

theorem length_legalWords : legalWords.length = 846 := by decide +kernel

theorem mem_legalWords {w : BitVec 16} : w ∈ legalWords ↔ ∃ row ∈ opcodeRows, row.selects w = true := by
  simp only [legalWords, List.mem_flatMap]
  exact exists_congr fun row => and_congr_right fun hrow => OpcodeRow.mem_words hrow

/-- Settles O3: a row selects the words of its commands and no others, and `legalWords` lists them. -/
theorem legalWordsAreExactlyTheRowsOfTheTable : Obligations.LegalWordsAreExactlyTheRowsOfTheTable := by
  refine ⟨opcodeRows_disjoint, fun c row hrow => selects_iff_decode hrow, fun c => no_row_selects_iff_rejected, rfl,
    legalWords, nodup_legalWords, length_legalWords, fun w => mem_legalWords.trans ⟨fun h => ?_, ?_⟩⟩
  · exact ⟨0, 0, (exists_selects_iff_decode (c := ⟨w, 0, 0⟩)).mp h⟩
  · rintro ⟨a, b, hi⟩
    exact (exists_selects_iff_decode (c := ⟨w, a, b⟩)).mpr hi

end Sys2Proof

/-! # Accepted words, operands and assembler lines (30_encoding.md)

What the machine does with an illegal word and with the bits above an operand's width, and what an assembler line stands for. -/

namespace Sys2Proof.Machine

/-! ## An illegal word -/

/-- Settles O4: the decoder rejects by the clauses of R71, and a rejected command is answered with `ERR_ILLEGAL`. -/
theorem illegalWordIsAnsweredAndChangesNothing : Obligations.IllegalWordIsAnsweredAndChangesNothing := by
  refine ⟨fun c => (decode_eq_error_iff c).symm, fun s c rest hp hh hw => ?_⟩
  obtain ⟨e, he⟩ := (decode_eq_error_iff c).mpr hw
  exact (step_command hp hh).trans (runCommand_of_illegal he)

/-! ## Bits above an operand's width -/

section operands
variable {W : Nat} {a a' b b' : Word}

theorem operand_congr (h : a.toNat % 2 ^ W = a'.toNat % 2 ^ W) : operand W a = operand W a' := by
  apply BitVec.eq_of_toNat_eq
  simpa [operand] using h

/-- Constructing a block of an operand word keeps its low `W` bits (40_bitblock.md R93), as reading an operand does. -/
theorem blockOfInt_toNat (W : Nat) (a : Word) : blockOfInt W a.toNat = operand W a := by
  apply BitVec.eq_of_toNat_eq
  simp [operand, blockOfInt]

theorem bbint_congr (h : operand W a = operand W a') (s : State) : bbint W a s = bbint W a' s := by
  rw [bbint, bbint, blockOfInt_toNat, blockOfInt_toNat, h]

theorem bbget_congr (h : operand W a = operand W a') (i : Nat) (s : State) : bbget W i a s = bbget W i a' s := by
  rw [bbget, bbget, h]

theorem bbset_congr (h : operand W a = operand W a') (i : Nat) (c : Bool) (s : State) :
    bbset W i c a s = bbset W i c a' s := by
  rw [bbset, bbset, h]

theorem bbxor_congr (ha : operand W a = operand W a') (hb : operand W b = operand W b') (s : State) :
    bbxor W a b s = bbxor W a' b' s := by
  rw [bbxor, bbxor, ha, hb]

theorem execFeistel_congr (ha : operand 32 a = operand 32 a') (hb : operand 48 b = operand 48 b') (s : State) :
    execFeistel a b s = execFeistel a' b' s := by
  rw [execFeistel, execFeistel, ha, hb]

theorem execExpand_congr (h : operand 32 a = operand 32 a') (s : State) : execExpand a s = execExpand a' s := by
  rw [execExpand, execExpand, h]

theorem execPermute_congr (h : operand 32 a = operand 32 a') (s : State) : execPermute a s = execPermute a' s := by
  rw [execPermute, execPermute, h]

theorem execSubst_congr (h : operand 48 a = operand 48 a') (s : State) : execSubst a s = execSubst a' s := by
  rw [execSubst, execSubst, h]

end operands

/-- Settles O6: the decoder's rows name the operands they use, and a command reads an operand word through `operand` only. -/
theorem unusedOperandBitsAreIgnored : Obligations.UnusedOperandBitsAreIgnored := by
  refine ⟨fun w a b b' h => decode_b_irrelevant a b b' h, fun w a a' b h => decode_a_irrelevant a a' b h,
    fun a a' s h32 => ?_, fun a a' s h48 => ?_⟩
  · have h := operand_congr h32
    exact ⟨execExpand_congr h s, execPermute_congr h s, bbint_congr h s, fun i => bbget_congr h i s,
      fun i c => bbset_congr h i c s, fun b => execFeistel_congr h rfl s,
      fun b => ⟨bbxor_congr h rfl s, bbxor_congr rfl h s⟩⟩
  · have h := operand_congr h48
    exact ⟨execSubst_congr h s, bbint_congr h s, fun i => bbget_congr h i s, fun i c => bbset_congr h i c s,
      fun b => execFeistel_congr rfl h s, fun b => ⟨bbxor_congr h rfl s, bbxor_congr rfl h s⟩⟩

/-! ## Assembler lines -/

theorem disassemble_mnemonic (i : Instr) : (disassemble i).mnemonic = i.mnemonic.toList := by
  cases i <;> rfl

theorem opcodeRows_mnemonics_upperCase :
    ∀ row ∈ opcodeRows, row.mnemonic.toList.map Char.toUpper = row.mnemonic.toList := by decide

theorem toUpper_mnemonic (i : Instr) : i.mnemonic.toList.map Char.toUpper = i.mnemonic.toList := by
  obtain ⟨row, hrow, hm, -⟩ := wordInRow i
  rw [← hm]
  exact opcodeRows_mnemonics_upperCase row hrow

theorem asmIndex_of_idxFits {idx : Nat} (h : idxFits idx = true) (i : Instr) : asmIndex idx i = .ok i :=
  if_pos (of_decide_eq_true h)

theorem asmSet_of_idxFits {idx : Nat} (h : idxFits idx = true) (val : Bool) (mk : Bool → Instr) :
    asmSet idx val.toNat mk = .ok (mk val) := by
  rw [asmSet, if_pos val.toNat_lt, asmIndex_of_idxFits h]
  cases val <;> rfl

/-- The form of an instruction's own line is that instruction, taking as many operand words as the line has. -/
theorem asmForm_disassemble (i : Instr) (h : i.wellFormed = true) :
    asmForm i.mnemonic (disassemble i).immediates ((disassemble i).operands[0]?.getD 0) ((disassemble i).operands[1]?.getD 0) =
      .ok ((disassemble i).operands.length, i) := by
  cases i with
  | rdsubkey idx | bbget32 idx a | bbget48 idx a | bbget64 idx a | rdtabE idx | rdtabP idx =>
    simp [asmForm, disassemble, Instr.mnemonic, asmIndex_of_idxFits h, Except.map]
  | bbset32 idx val a | bbset48 idx val a | bbset64 idx val a =>
    simp [asmForm, disassemble, Instr.mnemonic, asmSet_of_idxFits h, Except.map]
  | rdtabS idx =>
    have hidx : idx < 64 := of_decide_eq_true h
    have hrange : idx / 16 < 4 ∧ idx % 16 < 16 := by omega
    simp [asmForm, disassemble, Instr.mnemonic, hrange, Nat.div_add_mod]
  | status | loadkey a | encode a | feistel a b | expand a | subst a | permute a | bbint32 a | bbint48 a | bbint64 a
  | bbxor32 a b | bbxor48 a b | bbxor64 a b | discard => rfl

/-- Leaving out trailing zeros changes no operand, since an omitted one is read as 0 (30_encoding.md R73). -/
theorem getD_take_of_drop_zero {l : List Word} {n : Nat} (h : ∀ x ∈ l.drop n, x = 0) (k : Nat) :
    (l.take n)[k]?.getD 0 = l[k]?.getD 0 := by
  by_cases hk : k < n
  · rw [List.getElem?_take_of_lt hk]
  · have hk := Nat.le_of_not_lt hk
    rw [List.getElem?_take_eq_none hk]
    cases hl : l[k]? with
    | none => rfl
    | some x =>
      have hx : (l.drop n)[k - n]? = some x := by rw [List.getElem?_drop, Nat.add_sub_cancel' hk, hl]
      exact (h x (List.mem_of_getElem? hx)).symm

/-- A line of a form, with no operand word too many, is the command of the form's instruction. -/
theorem assemble_of_asmForm {line : AsmLine} {name : String} {n : Nat} {i : Instr}
    (hname : line.mnemonic.map Char.toUpper = name.toList)
    (hform : asmForm name line.immediates (line.operands[0]?.getD 0) (line.operands[1]?.getD 0) = .ok (n, i))
    (hlen : line.operands.length ≤ n) : assemble line = .ok (encode i) := by
  rw [assemble, hname, String.ofList_toList, hform]
  exact if_pos hlen

theorem assemble_disassemble {i : Instr} (hi : i.wellFormed = true) : assemble (disassemble i) = .ok (encode i) := by
  refine assemble_of_asmForm ?_ (asmForm_disassemble i hi) le_rfl
  rw [disassemble_mnemonic, toUpper_mnemonic]

/-- Settles O52: the mnemonic is read in upper case, and the operand words left out are read as the zeros they are. -/
theorem assembledLineIsTheEncodedInstruction : Obligations.AssembledLineIsTheEncodedInstruction := by
  refine fun i hi => ⟨assemble_disassemble hi, fun mnemonic n hm h0 => ?_⟩
  refine assemble_of_asmForm (hm.trans (disassemble_mnemonic i)) ?_ (List.length_take_le' n _)
  rw [getD_take_of_drop_zero h0, getD_take_of_drop_zero h0]
  exact asmForm_disassemble i hi

/-- Settles O53: both lines of each pair have forms with the same instruction. -/
theorem pseudoCommandsAreTheirExpansions : Obligations.PseudoCommandsAreTheirExpansions := by
  have new (a : Word) : assemble ⟨"NEW".toList, [], [a]⟩ = .ok (encode (.loadkey a)) :=
    assemble_of_asmForm (name := "NEW") rfl rfl le_rfl
  have mix (a b : Word) : assemble ⟨"MIX".toList, [], [a, b]⟩ = .ok (encode (.bbxor48 a b)) :=
    assemble_of_asmForm (name := "MIX") rfl rfl le_rfl
  have nop : assemble ⟨"NOP".toList, [], []⟩ = .ok (encode .status) := assemble_of_asmForm (name := "NOP") rfl rfl le_rfl
  have expansion (i : Instr) (hi : i.wellFormed = true) : .ok (encode i) = assemble (disassemble i) :=
    (assemble_disassemble hi).symm
  exact ⟨fun a => ⟨(new a).trans (expansion (.loadkey a) rfl), new a⟩,
    fun a b => ⟨(mix a b).trans (expansion (.bbxor48 a b) rfl), mix a b⟩, nop.trans (expansion .status rfl), nop⟩

end Sys2Proof.Machine

/-! # BitBlock utilities (40_bitblock.md)

Each command of the family answers an integer or `ERR_INDEX` and changes nothing else: its answer is said once for every width,
and a statement about the three widths only has to look up which command and which word belong to a width. -/

namespace Sys2Proof

/-! ## Words of the family's rows -/

section words
variable (op : BitVec 4) (wsel : BitVec 2) (idx : Nat) (val : Bool)

/-- A word is its `IDX`, put in bits 9..4, over the word with `IDX` zero (30_encoding.md R61). -/
theorem cmdWord_eq_or_idx (h : idx < 64) :
    cmdWord op wsel idx val = cmdWord op wsel 0 val ||| (BitVec.ofNat 16 idx <<< 4) := by
  rw [← BitVec.setWidth_ofNat_of_le_of_lt (w := 6) (v := 16) (by decide) h]
  apply BitVec.eq_of_getLsbD_eq
  intro k hk
  rw [BitVec.getLsbD_or, BitVec.getLsbD_shiftLeft, BitVec.getLsbD_setWidth, getLsbD_cmdWord, getLsbD_cmdWord]
  by_cases hlow : k < 4
  · simp [hlow]
  by_cases hhigh : 10 ≤ k
  · rw [BitVec.getLsbD_of_ge (BitVec.ofNat 6 idx) (k - 4) (by omega)]
    simp [show ¬ k < 10 by omega]
  · simp [hk, hlow, show ¬ k < 3 by omega, show k < 10 by omega, show k - 4 < 16 by omega]

/-- A word is its `VAL`, put in bit 3, over the word with `VAL` zero (30_encoding.md R61). -/
theorem cmdWord_eq_or_val :
    cmdWord op wsel idx val = cmdWord op wsel idx false ||| (BitVec.ofNat 16 val.toNat <<< 3) := by
  have hval : BitVec.ofNat 16 val.toNat = (BitVec.ofBool val).setWidth 16 := by cases val <;> rfl
  apply BitVec.eq_of_getLsbD_eq
  intro k hk
  rw [hval, BitVec.getLsbD_or, BitVec.getLsbD_shiftLeft, BitVec.getLsbD_setWidth, BitVec.getLsbD_ofBool, getLsbD_cmdWord,
    getLsbD_cmdWord]
  rcases Nat.lt_trichotomy k 3 with h | rfl | h
  · simp [h]
  · simp
  · simp [show ¬ k < 3 by omega, show ¬ k < 4 by omega, show k - 3 ≠ 0 by omega]

/-- A word is its `IDX` and its `VAL`, put in their places, over the word with both zero. -/
theorem cmdWord_eq_or_idx_or_val (h : idx < 64) : cmdWord op wsel idx val =
    cmdWord op wsel 0 false ||| (BitVec.ofNat 16 idx <<< 4) ||| (BitVec.ofNat 16 val.toNat <<< 3) := by
  rw [cmdWord_eq_or_val, cmdWord_eq_or_idx op wsel idx false h]

end words

/-- An instruction's word with its operand words decodes to it, whatever stands in an operand word it does not use. -/
theorem decode_of_encode_word {i : Instr} {w : BitVec 16} {a b : Word} (hi : i.wellFormed = true)
    (hw : (encode i).word = w) (hab : i.withOperands a b = i) : decode ⟨w, a, b⟩ = .ok i :=
  (decode_of_word_eq (c := ⟨w, a, b⟩) hi hw).trans (congrArg _ hab)

/-- A word of a width-selecting row without `IDX` and `VAL` is one of its three words, or illegal (30_encoding.md R71). -/
theorem illegalWord_of_not_mem_widths {w : BitVec 16} {op : BitVec 4} (hop : cmdOp w = op) (hmem : op ∈ [0x8#4, 0xB#4])
    (hw : w ∉ [cmdWord op 0b00 0 false, cmdWord op 0b01 0 false, cmdWord op 0b10 0 false]) : IllegalWord w := by
  by_contra hlegal
  obtain ⟨hzero, hwsel, hidx, hval⟩ : cmdZero w = 0 ∧ cmdWsel w ≠ 0b11 ∧ cmdIdx w = 0 ∧ cmdVal w = false := by
    simp only [List.mem_cons, List.not_mem_nil, or_false] at hmem
    rcases hmem with rfl | rfl <;> simpa [IllegalWord, hop] using hlegal
  have hsel : ∀ wsel : BitVec 2, wsel ≠ 0b11 → wsel ∈ [0b00, 0b01, 0b10] := by decide
  have hword : cmdWord op (cmdWsel w) 0 false = w := by simpa [hop, hidx, hval] using cmdWord_fields w hzero
  exact hw (hword ▸ List.mem_map_of_mem (f := (cmdWord op · 0 false)) (hsel _ hwsel))

end Sys2Proof

namespace Sys2Proof.Machine

/-! ## Integers and blocks -/

/-- 40_bitblock.md R92 with the bits numbered from the least significant. -/
theorem sum_testBit_eq_mod (n W : Nat) : ∑ k ∈ Finset.range W, (n.testBit k).toNat * 2 ^ k = n % 2 ^ W := by
  induction W with
  | zero => simp [Nat.mod_one]
  | succ W ih => rw [Finset.sum_range_succ, ih, Nat.toNat_testBit, Nat.mod_pow_succ, Nat.mul_comm]

/-- The integer of a block weighs its bits by block index (40_bitblock.md R92). -/
theorem intOfBlock_eq_sum {W : Nat} (v : BitVec W) :
    intOfBlock v = ∑ i ∈ Finset.range W, (blockBit v i).toNat * 2 ^ (W - 1 - i) := by
  calc intOfBlock v
      = ∑ k ∈ Finset.range W, (v.toNat.testBit k).toNat * 2 ^ k := by
        rw [sum_testBit_eq_mod, Nat.mod_eq_of_lt v.isLt, intOfBlock]
    _ = ∑ i ∈ Finset.range W, (v.toNat.testBit (W - 1 - i)).toNat * 2 ^ (W - 1 - i) :=
        (Finset.sum_range_reflect (fun k => (v.toNat.testBit k).toNat * 2 ^ k) W).symm
    _ = ∑ i ∈ Finset.range W, (blockBit v i).toNat * 2 ^ (W - 1 - i) :=
        Finset.sum_congr rfl fun i hi => by
          rw [BitVec.testBit_toNat, blockBit_eq_getLsbD v (Finset.mem_range.mp hi)]

@[simp] theorem intOfBlock_blockOfInt (W n : Nat) : intOfBlock (blockOfInt W n) = n % 2 ^ W := BitVec.toNat_ofNat n W

@[simp] theorem blockOfInt_intOfBlock {W : Nat} (v : BitVec W) : blockOfInt W (intOfBlock v) = v :=
  (BitVec.ofNat_toNat W v).trans v.setWidth_eq

/-- Settles O9: the conversions are those of `BitVec`, and the weights of R92 are those of the bits taken in reverse. -/
theorem blockIntegerConversionRoundTrips : Obligations.BlockIntegerConversionRoundTrips := fun W =>
  ⟨intOfBlock_blockOfInt W, intOfBlock_eq_sum, fun n hn => (intOfBlock_blockOfInt W n).trans (Nat.mod_eq_of_lt hn),
    blockOfInt_intOfBlock⟩

/-! ## Operands and results -/

theorem toNat_operand (W : Nat) (a : Word) : (operand W a).toNat = a.toNat % 2 ^ W := BitVec.toNat_setWidth W a

theorem result_eq_ofNat {W : Nat} (v : BitVec W) : result v = BitVec.ofNat 64 v.toNat := (BitVec.ofNat_toNat 64 v).symm

theorem getLsbD_result {W k : Nat} (v : BitVec W) (hk : k < 64) : (result v).getLsbD k = v.getLsbD k := by
  simp [result, hk]

/-- An operand has at block index `i` the bit `W-1-i` of its word (00_scope.md R12; 30_encoding.md R68). -/
theorem blockBit_operand {W i : Nat} (a : Word) (hi : i < W) : blockBit (operand W a) i = a.getLsbD (W - 1 - i) := by
  rw [blockBit_eq_getLsbD _ hi, getLsbD_operand, decide_eq_true (by omega), Bool.true_and]

/-! ## What the commands answer, at every width -/

section answers
variable {W i : Nat} (a b : Word) (c : Bool) (s : State)

/-- `BBINT` (40_bitblock.md R93). -/
theorem bbint_eq (W : Nat) : bbint W a s = .next (s.answer ⟨0, BitVec.ofNat 64 (a.toNat % 2 ^ W)⟩) := by
  rw [bbint, intOfBlock_blockOfInt, respond_eq]

/-- `BBXOR` (40_bitblock.md R96). -/
theorem bbxor_eq (W : Nat) :
    bbxor W a b s = .next (s.answer ⟨0, BitVec.ofNat 64 ((a.toNat % 2 ^ W) ^^^ (b.toNat % 2 ^ W))⟩) := by
  rw [bbxor, respond_eq, result_eq_ofNat, BitVec.toNat_xor, toNat_operand, toNat_operand]

/-- `BBGET` of an index below the width (40_bitblock.md R94). -/
theorem bbget_of_lt (hi : i < W) :
    bbget W i a s = .next (s.answer ⟨0, BitVec.ofNat 64 (a.getLsbD (W - 1 - i)).toNat⟩) := by
  rw [bbget, withIndex_of_lt hi, respond_eq, result_eq_ofNat, blockBit_operand a hi, BitVec.toNat_ofBool]

/-- `BBGET` of an index beyond the block (60_exceptions.md R217). -/
theorem bbget_of_ge (hi : W ≤ i) : bbget W i a s = .next (s.answer ⟨2, 0⟩) := withIndex_of_ge hi

/-- `BBSET` of an index below the width (40_bitblock.md R95). -/
theorem bbset_of_lt (hW : W ≤ 64) (hi : i < W) : ∃ d : Word,
    bbset W i c a s = .next (s.answer ⟨0, d⟩) ∧ d.toNat < 2 ^ W ∧
    ∀ j, j < W → d.getLsbD (W - 1 - j) = if j = i then c else a.getLsbD (W - 1 - j) := by
  refine ⟨result (setBlockBit (operand W a) i c), ?_, ?_, fun j hj => ?_⟩
  · rw [bbset, withIndex_of_lt hi, respond_eq]
  · rw [toNat_result _ hW]
    exact BitVec.isLt _
  · rw [getLsbD_result _ (by omega), ← blockBit_eq_getLsbD _ hj, blockBit_setBlockBit _ c hi hj, blockBit_operand a hj]

/-- `BBSET` of an index beyond the block (60_exceptions.md R217). -/
theorem bbset_of_ge (hi : W ≤ i) : bbset W i c a s = .next (s.answer ⟨2, 0⟩) := withIndex_of_ge hi

end answers

/-! ## The obligations -/

/-- An entry of a list by width (30_encoding.md R64) is that of 32, of 48 or of 64. -/
theorem widths_cases {α β : Type} {W : Nat} {x x32 x48 x64 : α} {y y32 y48 y64 : β}
    (h : (W, x, y) ∈ [(32, x32, y32), (48, x48, y48), (64, x64, y64)]) :
    (W = 32 ∧ x = x32 ∧ y = y32) ∨ (W = 48 ∧ x = x48 ∧ y = y48) ∨ (W = 64 ∧ x = x64 ∧ y = y64) := by
  simpa using h

/-- Settles O10: `bbint_eq` at the three widths; a legal word of the row is one of the three. -/
theorem bbintTruncatesToTheWidth : Obligations.BbintTruncatesToTheWidth := by
  refine ⟨fun W mk w h => ?_, fun w a b hop hw => ?_⟩
  · obtain ⟨hdecode, hexec⟩ : (∀ a b, decode ⟨w, a, b⟩ = .ok (mk a)) ∧ ∀ a s, exec (mk a) s = bbint W a s := by
      obtain ⟨rfl, rfl, rfl⟩ | ⟨rfl, rfl, rfl⟩ | ⟨rfl, rfl, rfl⟩ := widths_cases h <;>
        exact ⟨fun _ _ => decode_of_encode_word rfl rfl rfl, fun _ _ => rfl⟩
    exact ⟨hdecode, fun a s => (hexec a s).trans (bbint_eq a s W)⟩
  · exact (decode_eq_error_iff ⟨w, a, b⟩).mpr (illegalWord_of_not_mem_widths hop (by decide) hw)

/-- Settles O11: `bbget_of_lt` and `bbget_of_ge` at the three widths; a bit of a number is its quotient's parity. -/
theorem bbgetReadsTheBitAtTheBlockIndex : Obligations.BbgetReadsTheBitAtTheBlockIndex := by
  refine ⟨fun W mk w h => ?_, fun w a b hop h => (decode_eq_error_iff ⟨w, a, b⟩).mpr ?_⟩
  · obtain ⟨hdecode, hexec⟩ : (∀ i a b, i < 64 → decode ⟨w ||| (BitVec.ofNat 16 i <<< 4), a, b⟩ = .ok (mk i a)) ∧
        ∀ i a s, exec (mk i a) s = bbget W i a s := by
      obtain ⟨rfl, rfl, rfl⟩ | ⟨rfl, rfl, rfl⟩ | ⟨rfl, rfl, rfl⟩ := widths_cases h <;>
        exact ⟨fun i _ _ hi => decode_of_encode_word (decide_eq_true hi) (cmdWord_eq_or_idx _ _ i false hi) rfl,
          fun _ _ _ => rfl⟩
    refine ⟨hdecode, fun i a s hi => ?_, fun i a s hi => (hexec i a s).trans (bbget_of_ge a s hi)⟩
    rw [hexec, bbget_of_lt a s hi, ← BitVec.testBit_toNat, Nat.toNat_testBit]
    rfl
  · obtain hsel | hval | hzero := h
    · simp [IllegalWord, hop, hsel]
    · simp [IllegalWord, hop, hval]
    · exact .inr (.inl hzero)

/-- Settles O12: `bbset_of_lt` and `bbset_of_ge` at the three widths. -/
theorem bbsetReplacesTheBitAtTheBlockIndex : Obligations.BbsetReplacesTheBitAtTheBlockIndex := by
  refine ⟨fun W mk w h => ?_, fun w a b hop h => (decode_eq_error_iff ⟨w, a, b⟩).mpr ?_⟩
  · obtain ⟨hW, hdecode, hexec⟩ : W ≤ 64 ∧ (∀ i c a b, i < 64 →
        decode ⟨w ||| (BitVec.ofNat 16 i <<< 4) ||| (BitVec.ofNat 16 c.toNat <<< 3), a, b⟩ = .ok (mk i c a)) ∧
        ∀ i c a s, exec (mk i c a) s = bbset W i c a s := by
      obtain ⟨rfl, rfl, rfl⟩ | ⟨rfl, rfl, rfl⟩ | ⟨rfl, rfl, rfl⟩ := widths_cases h <;>
        exact ⟨by decide, fun i c _ _ hi => decode_of_encode_word (decide_eq_true hi) (cmdWord_eq_or_idx_or_val _ _ i c hi) rfl,
          fun _ _ _ _ => rfl⟩
    refine ⟨hdecode, fun i c a s hi => ?_, fun i c a s hi => (hexec i c a s).trans (bbset_of_ge a c s hi)⟩
    rw [hexec]
    exact bbset_of_lt a c s hW hi
  · obtain hsel | hzero := h
    · simp [IllegalWord, hop, hsel]
    · exact .inr (.inl hzero)

/-- Settles O13: `BBGET` reads of the result of `BBSET` the bit that `bbset_of_lt` says it has. -/
theorem bbgetAfterBbsetReadsTheWrittenBit : Obligations.BbgetAfterBbsetReadsTheWrittenBit := by
  intro W set get h i j c a s t d hi hj hset hrsp
  obtain ⟨hW, hexecSet, hexecGet⟩ : W ≤ 64 ∧ (∀ i c a s, exec (set i c a) s = bbset W i c a s) ∧
      ∀ j a s, exec (get j a) s = bbget W j a s := by
    obtain ⟨rfl, rfl, rfl⟩ | ⟨rfl, rfl, rfl⟩ | ⟨rfl, rfl, rfl⟩ := widths_cases h <;>
      exact ⟨by decide, fun _ _ _ _ => rfl, fun _ _ _ => rfl⟩
  have hbit : d.getLsbD (W - 1 - j) = if j = i then c else a.getLsbD (W - 1 - j) := by
    obtain ⟨d', hd', -, hbits⟩ := bbset_of_lt a c s hW hi
    obtain rfl := Host.Outcome.next.inj (hd'.symm.trans ((hexecSet i c a s).symm.trans hset))
    cases hrsp
    exact hbits j hj
  refine ⟨fun hji => ?_, fun hji => ?_⟩
  · rw [hexecGet, bbget_of_lt d t hj, hbit, if_pos hji]
    cases c <;> rfl
  · rw [hexecGet, hexecGet, bbget_of_lt d t hj, bbget_of_lt a t hj, hbit, if_neg hji]

/-- Settles O14: `bbxor_eq` at the three widths; a legal word of the row is one of the three. -/
theorem bbxorIsBitwiseAtTheWidth : Obligations.BbxorIsBitwiseAtTheWidth := by
  refine ⟨fun W mk w h => ?_, fun w a b hop hw => ?_⟩
  · obtain ⟨hdecode, hexec⟩ : (∀ a b, decode ⟨w, a, b⟩ = .ok (mk a b)) ∧ ∀ a b s, exec (mk a b) s = bbxor W a b s := by
      obtain ⟨rfl, rfl, rfl⟩ | ⟨rfl, rfl, rfl⟩ | ⟨rfl, rfl, rfl⟩ := widths_cases h <;>
        exact ⟨fun _ _ => decode_of_encode_word rfl rfl rfl, fun _ _ _ => rfl⟩
    exact ⟨hdecode, fun a b s => (hexec a b s).trans (bbxor_eq a b s W)⟩
  · exact (decode_eq_error_iff ⟨w, a, b⟩).mpr (illegalWord_of_not_mem_widths hop (by decide) hw)

end Sys2Proof.Machine

/-! # The tables (41_tables.md)

The three table sets are well-formed, so what `RDTAB` reads back is in range; and a difference at one S-box's output survives the
rest of the round, so a flipped input bit shows in the output once it shows at one S-box. -/

namespace Sys2Proof

/-! ## Well-formed table sets -/

/-- A nibble is in 0..15, so R115 asks nothing that the type does not give. -/
theorem Tables.substitutionOk (T : Tables) : T.SubstitutionOk := fun r c => Nat.le_of_lt_succ (T.sbox[r][c]).isLt

/-- Every source index stands in a well-formed `P` (41_tables.md R114). -/
theorem Tables.PermutationOk.exists_entry {T : Tables} (hP : T.PermutationOk) {k : Nat} (hk : k < 32) :
    ∃ i, ∃ hi : i < 32, T.p[i].toNat = k + 1 := by
  obtain ⟨-, hcount⟩ := hP
  have hmem : BitVec.ofNat 6 (k + 1) ∈ T.p.toList := List.count_pos_iff.mp (by rw [hcount ⟨k, hk⟩]; decide)
  obtain ⟨i, hi, he⟩ := Vector.mem_iff_getElem.mp (Vector.mem_toList_iff.mp hmem)
  exact ⟨i, hi, by rw [he, BitVec.toNat_ofNat, Nat.mod_eq_of_lt (by omega)]⟩

theorem tablesRef_expansionOk : tablesRef.ExpansionOk := by decide +kernel
theorem tablesRef_permutationOk : tablesRef.PermutationOk := by decide +kernel
theorem tablesToy_expansionOk : tablesToy.ExpansionOk := by decide +kernel
theorem tablesToy_permutationOk : tablesToy.PermutationOk := by decide +kernel

theorem tablesRef_wf : tablesRef.WF := ⟨tablesRef_expansionOk, tablesRef_permutationOk, tablesRef.substitutionOk⟩
theorem tablesToy_wf : tablesToy.WF := ⟨tablesToy_expansionOk, tablesToy_permutationOk, tablesToy.substitutionOk⟩

/-- The core's tables are the parameter where that is well-formed, and else `TABLES_REF` (41_tables.md R116; log 1). -/
theorem Config.tables_wf : Config.tables.WF := by
  unfold Config.tables
  split
  case isTrue h => exact h
  case isFalse => exact tablesRef_wf

/-- Settles O15: R113 and R114 are checked of the two instantiations, and the core holds a checked set or `TABLES_REF`. -/
theorem tableSetsAreWellFormed : Obligations.TableSetsAreWellFormed := ⟨Config.tables_wf, tablesRef_wf, tablesToy_wf⟩

end Sys2Proof

namespace Sys2Proof.Machine

/-! ## What `RDTAB` answers, for every table set -/

section rdtab
variable (T : Tables) (s : State) {i : Nat}

theorem readSbox_rowMajor (row : Fin 4) (col : Fin 16) :
    readSbox T ((16 * row + col) / 16) ((16 * row + col) % 16) = T.sbox[row][col] := by
  have hrow : (16 * row.val + col) / 16 % 4 = row := by omega
  have hcol : (16 * row.val + col) % 16 % 16 = col := by omega
  simp only [readSbox, hrow, hcol]
  rfl

theorem rdtabE_of_lt (hi : i < 48) : rdtabE T i s = .next (s.answer ⟨0, result T.e[i]⟩) := withIndex_of_lt hi
theorem rdtabE_of_ge (hi : 48 ≤ i) : rdtabE T i s = .next (s.answer ⟨2, 0⟩) := withIndex_of_ge hi
theorem rdtabP_of_lt (hi : i < 32) : rdtabP T i s = .next (s.answer ⟨0, result T.p[i]⟩) := withIndex_of_lt hi
theorem rdtabP_of_ge (hi : 32 ≤ i) : rdtabP T i s = .next (s.answer ⟨2, 0⟩) := withIndex_of_ge hi

theorem rdtabS_eq (i : Nat) : rdtabS T i s = .next (s.answer ⟨0, result (readSbox T (i / 16) (i % 16))⟩) := respond_eq _ s

theorem rdtabS_rowMajor (row : Fin 4) (col : Fin 16) :
    rdtabS T (16 * row + col) s = .next (s.answer ⟨0, result T.sbox[row][col]⟩) := by
  rw [rdtabS_eq, readSbox_rowMajor]

end rdtab

/-- Settles O16: the words are those of the three rows, and the answers those of `RDTAB` for every table set. -/
theorem rdtabReadsTheEntry : Obligations.RdtabReadsTheEntry := by
  refine ⟨fun i a b hi => ?decoding, fun s i => ?e, fun s i hi => rdtabE_of_ge _ s hi, fun s i => ?p,
    fun s i hi => rdtabP_of_ge _ s hi, fun s row col => ?s, fun s => ?examples, fun w a b hop h => ?illegal⟩
  case decoding =>
    have hword (tsel : BitVec 2) := cmdWord_eq_or_idx 0xD tsel i false hi
    exact ⟨decode_of_encode_word (decide_eq_true hi) (hword 0b00) rfl, decode_of_encode_word (decide_eq_true hi) (hword 0b01) rfl,
      decode_of_encode_word (decide_eq_true hi) (hword 0b10) rfl⟩
  case e =>
    rw [← result_eq_ofNat]
    exact rdtabE_of_lt _ s i.isLt
  case p =>
    rw [← result_eq_ofNat]
    exact rdtabP_of_lt _ s i.isLt
  case s =>
    rw [← result_eq_ofNat]
    exact rdtabS_rowMajor _ s row col
  case examples =>
    exact ⟨rdtabE_of_lt _ s (by decide), rdtabP_of_lt _ s (by decide), rdtabS_rowMajor _ s 3 0, rdtabE_of_ge _ s (by decide)⟩
  case illegal =>
    refine (decode_eq_error_iff ⟨w, a, b⟩).mpr ?_
    obtain hsel | hval | hzero := h
    · simp [IllegalWord, hop, hsel]
    · simp [IllegalWord, hop, hval]
    · exact .inr (.inl hzero)

/-- Settles O17: the answers are entries of the core's tables, which are well-formed. -/
theorem entriesReadBackAreInRange : Obligations.EntriesReadBackAreInRange := by
  obtain ⟨⟨hE, -⟩, ⟨hP, -⟩, -⟩ := Config.tables_wf
  refine ⟨fun s i hi => ⟨_, rdtabE_of_lt _ s hi, ?_⟩, fun s i hi => ⟨_, rdtabP_of_lt _ s hi, ?_⟩,
    fun s i _ => ⟨_, rdtabS_eq _ s i, ?_⟩⟩
  · rw [toNat_result _ (by decide)]
    exact hE ⟨i, hi⟩
  · rw [toNat_result _ (by decide)]
    exact hP ⟨i, hi⟩
  · rw [toNat_result _ (by decide)]
    exact Nat.le_of_lt_succ (BitVec.isLt _)

/-! ## A difference at one S-box reaches the round's output -/

section difference
variable {T : Tables}

/-- Slot `j` of the substituted half is the S-box value of chunk `j` (43_round_function.md R148). -/
theorem blockBit_substitute (T : Tables) (y : BitVec 48) {j k : Nat} (hj : j < 8) (hk : k < 4) :
    blockBit (substitute T y) (4 * j + k) = blockBit (sboxLookup T (chunkOf y j)) k := by
  have hslot : (4 * j + k) / 4 = j := by omega
  have hbit : (4 * j + k) % 4 = k := by omega
  have hlt : 4 * j + k < 32 := by omega
  simp [substitute, hslot, hbit, hlt]

theorem sboxLookup_eq_of_substitute_eq {y z : BitVec 48} {j : Nat} (hj : j < 8) (h : substitute T y = substitute T z) :
    sboxLookup T (chunkOf y j) = sboxLookup T (chunkOf z j) :=
  block_ext fun k hk => by rw [← blockBit_substitute T y hj hk, h, blockBit_substitute T z hj hk]

/-- The permutation stage loses nothing: each source bit stands at the target whose entry names it (41_tables.md R114). -/
theorem permuteHalf_injective (hP : T.PermutationOk) : Function.Injective (permuteHalf T) := by
  intro x y h
  refine block_ext fun k hk => ?_
  obtain ⟨i, hi, he⟩ := hP.exists_entry hk
  have hx (z : Half) : blockBit (permuteHalf T z) i = blockBit z k := by
    rw [permuteHalf, blockBit_select _ _ hi, he, Nat.add_sub_cancel]
  rw [← hx x, h, hx y]

/-- Halves that differ at the output of S-box `j` differ after the round function. -/
theorem feistel_ne_of_sboxLookup_ne (hP : T.PermutationOk) {r r' : Half} {k : Subkey} {j : Nat} (hj : j < 8)
    (h : sboxLookup T (chunkOf (mix (expandHalf T r) k) j) ≠ sboxLookup T (chunkOf (mix (expandHalf T r') k) j)) :
    feistel T r k ≠ feistel T r' k :=
  fun he => h (sboxLookup_eq_of_substitute_eq hj (permuteHalf_injective hP he))

end difference

/-- Each one-bit half is told from the zero half, under the zero subkey, by some S-box: its entry at the chunk the bit feeds is not
`SBOX[0][0]`. This depends on the entries, not on `WF` alone (41_tables.md R117). -/
abbrev SomeSboxSeesEachFlip (T : Tables) : Prop :=
  ∀ b : Fin 32, ∃ j : Fin 8,
    sboxLookup T (chunkOf (mix (expandHalf T (1#32 <<< b.val)) 0) j) ≠ sboxLookup T (chunkOf (mix (expandHalf T 0) 0) j)

theorem tablesRef_someSboxSeesEachFlip : SomeSboxSeesEachFlip tablesRef := by decide +kernel
theorem tablesToy_someSboxSeesEachFlip : SomeSboxSeesEachFlip tablesToy := by decide +kernel

/-- Settles O25: some S-box sees the flip, and the permutation does not hide it. -/
theorem oneBitFlipChangesTheRoundZeroOutput : Obligations.OneBitFlipChangesTheRoundZeroOutput := by
  intro b
  obtain ⟨i, hi⟩ := tablesRef_someSboxSeesEachFlip b
  obtain ⟨j, hj⟩ := tablesToy_someSboxSeesEachFlip b
  exact ⟨feistel_ne_of_sboxLookup_ne tablesRef_permutationOk i.isLt hi,
    feistel_ne_of_sboxLookup_ne tablesToy_permutationOk j.isLt hj⟩

end Sys2Proof.Machine

/-! # The key schedule (42_key_schedule.md)

A subkey is 48 consecutive bits of the key, so what is said of the schedule is said bit by bit; the two commands load the
schedule and read it. -/

namespace Sys2Proof

/-- The rows that use no field have one word each; any other word with their `OP` is illegal (30_encoding.md R70, R71). -/
theorem illegalWord_of_ne_bare {w : BitVec 16} {op : BitVec 4} (hop : cmdOp w = op)
    (hmem : op ∈ [0x0#4, 0x1#4, 0x2#4, 0x3#4, 0x4#4, 0x5#4, 0x6#4, 0xC#4]) (hw : w ≠ cmdWord op 0 0 false) :
    IllegalWord w := by
  by_contra hlegal
  obtain ⟨hzero, hwsel, hidx, hval⟩ : cmdZero w = 0 ∧ cmdWsel w = 0 ∧ cmdIdx w = 0 ∧ cmdVal w = false := by
    simp only [List.mem_cons, List.not_mem_nil, or_false] at hmem
    rcases hmem with rfl | rfl | rfl | rfl | rfl | rfl | rfl | rfl <;> simpa [IllegalWord, hop] using hlegal
  have hword : cmdWord op 0 0 false = w := by simpa [hop, hwsel, hidx, hval] using cmdWord_fields w hzero
  exact hw hword.symm

end Sys2Proof

namespace Sys2Proof.Machine

/-! ## The bits of a subkey -/

section subkey
variable (K : Word)

/-- Bit `k` of `SK[r]` is key bit `r + k` (42_key_schedule.md R130). -/
@[simp] theorem getLsbD_subkey (r k : Nat) : (subkey K r).getLsbD k = (decide (k < 48) && K.getLsbD (r + k)) := by
  rw [subkey, BitVec.getLsbD_setWidth, BitVec.getLsbD_ushiftRight]

/-- A subkey is known by the 48 key bits from `r` on. -/
theorem subkey_ext {r : Nat} {x : Subkey} (h : ∀ k, k < 48 → K.getLsbD (r + k) = x.getLsbD k) : subkey K r = x :=
  BitVec.eq_of_getLsbD_eq fun k hk => by rw [getLsbD_subkey, decide_eq_true hk, Bool.true_and, h k hk]

theorem toNat_subkey (r : Nat) : (subkey K r).toNat = K.toNat / 2 ^ r % 2 ^ 48 := by
  rw [subkey, BitVec.toNat_setWidth, BitVec.toNat_ushiftRight, Nat.shiftRight_eq_div_pow]

theorem blockBit_subkey {r j : Nat} (hr : r < 16) (hj : j < 48) : blockBit (subkey K r) j = blockBit K (16 - r + j) := by
  rw [blockBit_eq_getLsbD _ hj, blockBit_eq_getLsbD _ (by omega), getLsbD_subkey, decide_eq_true (by omega), Bool.true_and]
  congr 1
  omega

theorem getElem_schedule (r : Fin 16) : (schedule K)[r] = subkey K r := by simp [schedule]

/-- The next subkey loses the lowest bit and gains key bit `48 + r` at the top (42_key_schedule.md R133). -/
theorem subkey_succ (r : Nat) :
    subkey K (r + 1) = (subkey K r >>> 1) ||| ((BitVec.ofBool (K.getLsbD (48 + r))).setWidth 48 <<< 47) := by
  refine subkey_ext K fun k hk => ?_
  rw [BitVec.getLsbD_or, BitVec.getLsbD_ushiftRight, getLsbD_subkey, BitVec.getLsbD_shiftLeft]
  by_cases htop : k = 47
  · subst htop
    simp [show r + 1 + 47 = 48 + r by omega]
  · simp [show k < 47 by omega, show 1 + k < 48 by omega, Nat.add_assoc]

theorem subkey_xor (M : Word) (r : Nat) : subkey (K ^^^ M) r = subkey K r ^^^ subkey M r := by
  rw [subkey, BitVec.ushiftRight_xor_distrib, BitVec.setWidth_xor, subkey, subkey]

/-- A key with only bit `b` set leaves subkey `r` zero unless `b` is one of the 48 bits from `r` on. -/
theorem subkey_twoPow_eq_zero_iff {b : Nat} (hb : b < 64) (r : Nat) :
    subkey (BitVec.twoPow 64 b) r = 0 ↔ b < r ∨ r + 48 ≤ b := by
  refine ⟨fun h => ?_, fun hout => subkey_ext _ fun k hk => ?_⟩
  · by_contra hin
    have hbit : (subkey (BitVec.twoPow 64 b) r).getLsbD (b - r) = true := by
      rw [getLsbD_subkey, BitVec.getLsbD_twoPow, decide_eq_true (show b - r < 48 by omega), decide_eq_true hb,
        decide_eq_true (show b = r + (b - r) by omega)]
      rfl
    simp [h] at hbit
  · rw [BitVec.getLsbD_twoPow, decide_eq_false (show b ≠ r + k by omega), Bool.and_false]
    exact BitVec.getLsbD_zero.symm

/-- Where a key bit enters (42_key_schedule.md R133). -/
theorem subkey_flip_eq_iff {b : Nat} (hb : b < 64) (r : Nat) :
    subkey (K ^^^ (1#64 <<< b)) r = subkey K r ↔ b < r ∨ r + 48 ≤ b := by
  rw [subkey_xor, ← subkey_twoPow_eq_zero_iff hb r]
  exact xor_left_eq_self_iff

/-- Key bit 63 enters no subkey (42_key_schedule.md R133). -/
theorem schedule_flip_63 : schedule (K ^^^ (1#64 <<< 63)) = schedule K :=
  congrArg Vector.ofFn <| funext fun r => (subkey_flip_eq_iff K (by decide) r).mpr (.inr (by omega))

end subkey

theorem subkey_zero (r : Nat) : subkey 0 r = 0 := subkey_ext 0 fun k _ => by simp

theorem subkey_allOnes {r : Nat} (hr : r < 16) : subkey (BitVec.allOnes 64) r = BitVec.allOnes 48 :=
  subkey_ext _ fun k hk => by
    rw [BitVec.getLsbD_allOnes, BitVec.getLsbD_allOnes, decide_eq_true (by omega), decide_eq_true hk]

/-! ## What the two commands answer -/

section answers
variable {s : State}

theorem exec_loadkey_congr {K K' : Word} (h : schedule K = schedule K') (s : State) :
    exec (.loadkey K) s = exec (.loadkey K') s := by
  simp only [exec, execLoadkey, h]

/-- `RDSUBKEY` with a key loaded (42_key_schedule.md R132). -/
theorem exec_rdsubkey_of_keyed {sk : SubkeyFile} (i : Fin 16) (h : s.inst = .keyed sk) :
    exec (.rdsubkey i) s = .next (s.answer ⟨0, result sk[i]⟩) := by
  simp [exec, execRdsubkey, withIndex_of_lt i.isLt, h, respond_eq]

/-- `RDSUBKEY` of an index beyond the file, whatever `KEYV` is (60_exceptions.md R224). -/
theorem exec_rdsubkey_of_ge {i : Nat} (hi : 16 ≤ i) : exec (.rdsubkey i) s = .next (s.answer ⟨2, 0⟩) := withIndex_of_ge hi

/-- `RDSUBKEY` with no key loaded (60_exceptions.md R218). -/
theorem exec_rdsubkey_of_empty {i : Nat} (hi : i < 16) (h : s.inst = .empty) :
    exec (.rdsubkey i) s = .next (s.answer ⟨3, 0⟩) := by
  simp [exec, execRdsubkey, withIndex_of_lt hi, h, raise_eq, ErrCode.number]

end answers

/-! ## The obligations -/

/-- Settles O26: what is loaded is `schedule K`, and its entries are the subkeys of `K`. -/
theorem loadkeyLoadsTheScheduleOnce : Obligations.LoadkeyLoadsTheScheduleOnce := by
  refine ⟨fun a b => decode_of_encode_word rfl rfl rfl,
    fun s K hempty => ⟨schedule K, exec_loadkey_of_empty K hempty, fun r => ?subkeys⟩,
    fun s K sk hkeyed => exec_loadkey_of_keyed K hkeyed,
    fun w a b hop hw => (decode_eq_error_iff ⟨w, a, b⟩).mpr (illegalWord_of_ne_bare hop (by decide) hw)⟩
  rw [getElem_schedule]
  exact ⟨toNat_subkey K r, fun j hj => blockBit_subkey K r.isLt hj⟩

/-- Settles O27: the index check comes before the look at `KEYV`. -/
theorem rdsubkeyReadsTheSubkey : Obligations.RdsubkeyReadsTheSubkey := by
  refine ⟨fun i a b hi => decode_of_encode_word (decide_eq_true hi) (cmdWord_eq_or_idx 0x7 0 i false hi) rfl,
    fun s sk i hkeyed => ?read, fun s i hi => exec_rdsubkey_of_ge hi, fun s i hi hempty => exec_rdsubkey_of_empty hi hempty,
    fun w a b hop h => (decode_eq_error_iff ⟨w, a, b⟩).mpr ?illegal⟩
  case read =>
    rw [← result_eq_ofNat]
    exact exec_rdsubkey_of_keyed i hkeyed
  case illegal =>
    obtain hsel | hval | hzero := h
    · exact .inr (.inr (.inr (.inr (.inl ⟨hsel, by simp [hop]⟩))))
    · simp [IllegalWord, hop, hval]
    · exact .inr (.inl hzero)

/-- Settles O28: a subkey is the 48 key bits from `r` on, of which bit 63 is never one. -/
theorem keyScheduleConsequences : Obligations.KeyScheduleConsequences := by
  refine ⟨fun K => ⟨?first, toNat_subkey K 15⟩, fun K r _ => subkey_succ K r,
    fun K s => exec_loadkey_congr (schedule_flip_63 K) s, fun T K pt => by rw [schedule_flip_63],
    fun j r hj hr => ?enters, fun r hr => ⟨subkey_zero r, subkey_allOnes hr⟩⟩
  case first => rw [toNat_subkey, Nat.pow_zero, Nat.div_one]
  case enters =>
    simp only [subkey_flip_eq_iff _ (show 48 + j < 64 by omega), forall_const]
    omega

end Sys2Proof.Machine

/-! # The round function (43_round_function.md)

`EXPAND` and `PERMUTE` are one bit-selection under two tables, so what they do to a bit, to all ones and to a single 1 is said once
for selection; `SUBST` is said slot by slot; and `FEISTEL` composes the stages because an operand gives back the block a result
holds. -/

namespace Sys2Proof

/-! ## What a table of positions holds -/

/-- Counting the places of an entry is counting the entry. -/
theorem countP_entry_eq_count {n : Nat} (V : Vector (BitVec 6) n) {v : Nat} (hv : v < 64) :
    (List.finRange n).countP (fun i => V[i].toNat == v) = V.toList.count (BitVec.ofNat 6 v) := by
  have hlist : (List.finRange n).map (V[·]) = V.toList := by
    rw [← List.ofFn_eq_map, ← Vector.toList_ofFn]
    exact congrArg Vector.toList Vector.ofFn_getElem
  have hentry (x : BitVec 6) : x.toNat = v ↔ x = BitVec.ofNat 6 v := by
    rw [← BitVec.toNat_inj, BitVec.toNat_ofNat, Nat.mod_eq_of_lt hv]
  rw [← hlist, List.count, List.countP_map]
  exact List.countP_congr fun i _ => by simpa using hentry V[i]

/-- Every source bit is selected once or twice (41_tables.md R113). -/
theorem Tables.ExpansionOk.countP_entry {T : Tables} (hE : T.ExpansionOk) (b : Fin 32) :
    1 ≤ (List.finRange 48).countP (fun i => T.e[i].toNat == b.val + 1) ∧
      (List.finRange 48).countP (fun i => T.e[i].toNat == b.val + 1) ≤ 2 := by
  rw [countP_entry_eq_count T.e (by omega)]
  exact hE.2 b

/-- Every source index stands in a well-formed `E` (41_tables.md R113). -/
theorem Tables.ExpansionOk.exists_entry {T : Tables} (hE : T.ExpansionOk) {k : Nat} (hk : k < 32) :
    ∃ i : Fin 48, T.e[i].toNat = k + 1 := by
  obtain ⟨i, -, hi⟩ := List.countP_pos_iff.mp (hE.countP_entry ⟨k, hk⟩).1
  exact ⟨i, eq_of_beq hi⟩

/-- A well-formed `P` is a permutation of the block indices, written 1-based (41_tables.md R114). -/
theorem Tables.PermutationOk.exists_perm {T : Tables} (hP : T.PermutationOk) :
    ∃ σ : Equiv.Perm (Fin 32), ∀ i, T.p[i].toNat = σ i + 1 := by
  have hsource (i : Fin 32) : ∃ k : Fin 32, T.p[i].toNat = k + 1 := by
    obtain ⟨hlow, hhigh⟩ := hP.1 i
    exact ⟨⟨T.p[i].toNat - 1, by omega⟩, by dsimp only; omega⟩
  choose f hf using hsource
  have hsurjective : Function.Surjective f := fun k => by
    obtain ⟨i, hi, he⟩ := hP.exists_entry k.isLt
    have hfi : T.p[i].toNat = f ⟨i, hi⟩ + 1 := hf ⟨i, hi⟩
    exact ⟨⟨i, hi⟩, Fin.ext (by omega)⟩
  exact ⟨Equiv.ofBijective f (Finite.injective_iff_bijective.mp (Finite.injective_iff_surjective.mpr hsurjective)), hf⟩

/-! ## Words of the rows that use no field -/

/-- Any other word with the `OP` of a row that uses no field is rejected (30_encoding.md R70, R71). -/
theorem decode_eq_error_of_ne_bare {w : BitVec 16} {op : BitVec 4} {a b : Word} (hop : cmdOp w = op)
    (hmem : op ∈ [0x0#4, 0x1#4, 0x2#4, 0x3#4, 0x4#4, 0x5#4, 0x6#4, 0xC#4]) (hw : w ≠ cmdWord op 0 0 false) :
    ∃ e, decode ⟨w, a, b⟩ = .error e :=
  (decode_eq_error_iff ⟨w, a, b⟩).mpr (illegalWord_of_ne_bare hop hmem hw)

end Sys2Proof

namespace Sys2Proof.Machine

/-! ## Bit-selection -/

section select
variable {n m : Nat} {V : Vector (BitVec 6) n}

/-- Bit-selection in integer bits: bit `n-1-i` of the result is bit `m - V[i]` of the source (43_round_function.md R146, R149). -/
theorem getLsbD_select (hV : ∀ i : Fin n, 1 ≤ V[i].toNat ∧ V[i].toNat ≤ m) (x : BitVec m) (i : Fin n) :
    (select V x).getLsbD (n - 1 - i) = x.getLsbD (m - V[i].toNat) := by
  obtain ⟨hlow, hhigh⟩ := hV i
  have hsource : blockBit (select V x) i = blockBit x (V[i].toNat - 1) := blockBit_select V x i.isLt
  rw [← blockBit_eq_getLsbD _ i.isLt, hsource, blockBit_eq_getLsbD x (by omega)]
  congr 1
  omega

/-- The response of a selecting command, bit by bit of its operand word. -/
theorem getLsbD_result_select (hV : ∀ i : Fin n, 1 ≤ V[i].toNat ∧ V[i].toNat ≤ m) (hn : n ≤ 64) (a : Word) (i : Fin n) :
    (result (select V (operand m a))).getLsbD (n - 1 - i) = a.getLsbD (m - V[i].toNat) := by
  obtain ⟨hlow, hhigh⟩ := hV i
  rw [getLsbD_result _ (by omega), getLsbD_select hV, getLsbD_operand, decide_eq_true (by omega), Bool.true_and]

/-- Bit-selection from all ones meets no 0. -/
theorem select_allOnes (hV : ∀ i : Fin n, 1 ≤ V[i].toNat ∧ V[i].toNat ≤ m) :
    select V (BitVec.allOnes m) = BitVec.allOnes n := by
  refine block_ext fun i hi => ?_
  obtain ⟨hlow, hhigh⟩ : 1 ≤ V[i].toNat ∧ V[i].toNat ≤ m := hV ⟨i, hi⟩
  rw [blockBit_select V _ hi, blockBit, blockBit, BitVec.getMsbD_allOnes, BitVec.getMsbD_allOnes, decide_eq_true hi,
    decide_eq_true (by omega)]

/-- Selection loses nothing when every source index has an entry. -/
theorem select_injective (hV : ∀ k < m, ∃ i : Fin n, V[i].toNat = k + 1) :
    Function.Injective (select V : BitVec m → BitVec n) := by
  intro x y h
  refine block_ext fun k hk => ?_
  obtain ⟨i, hi⟩ := hV k hk
  have hread (z : BitVec m) : blockBit (select V z) i = blockBit z (V[i].toNat - 1) := blockBit_select V z i.isLt
  rw [hi, Nat.add_sub_cancel] at hread
  rw [← hread x, h, hread y]

end select

/-! ## Blocks with a single 1, and the number of 1 bits -/

theorem blockBit_oneBit {W b i : Nat} (hb : b < W) (hi : i < W) : blockBit (1#W <<< (W - 1 - b)) i = decide (i = b) := by
  rw [blockBit, BitVec.getMsbD_shiftLeft, BitVec.getMsbD_one, decide_eq_true (show 0 < W by omega), Bool.and_true]
  exact decide_eq_decide.mpr (by omega)

theorem operand_oneBit (b : Fin 32) : operand 32 (1#64 <<< (31 - b.val)) = 1#32 <<< (31 - b.val) := by
  decide +revert

theorem result_oneBit (b : Fin 32) : result (1#32 <<< (31 - b.val)) = 1#64 <<< (31 - b.val) := by
  decide +revert

/-- A 1 at source index `b` shows at the places whose entry names `b`. -/
theorem blockBit_select_oneBit {n m : Nat} {V : Vector (BitVec 6) n} (hV : ∀ i : Fin n, 1 ≤ V[i].toNat ∧ V[i].toNat ≤ m)
    {b : Nat} (hb : b < m) (i : Fin n) : blockBit (select V (1#m <<< (m - 1 - b))) i = decide (V[i].toNat = b + 1) := by
  obtain ⟨hlow, hhigh⟩ := hV i
  have hsource : blockBit (select V (1#m <<< (m - 1 - b))) i = blockBit (1#m <<< (m - 1 - b)) (V[i].toNat - 1) :=
    blockBit_select V _ i.isLt
  rw [hsource, blockBit_oneBit hb (by omega)]
  exact decide_eq_decide.mpr (by omega)

/-- Reordering the indices does not change a count. -/
theorem countP_finRange_perm {n : Nat} (σ : Equiv.Perm (Fin n)) (p : Fin n → Bool) :
    (List.finRange n).countP (fun i => p (σ i)) = (List.finRange n).countP p := by
  rw [← σ.map_finRange_perm.countP_eq p, List.countP_map]
  rfl

/-- The number of 1 bits, by integer bits and by block indices. -/
theorem countP_getLsbD {W : Nat} (v : BitVec W) :
    (List.range W).countP (fun k => v.getLsbD k) = (List.finRange W).countP (fun i : Fin W => blockBit v i) := by
  have hrev (i : Fin W) : blockBit v i = v.getLsbD (Fin.revPerm i) := by
    rw [blockBit_eq_getLsbD v i.isLt, Fin.revPerm_apply, Fin.val_rev, Nat.sub_sub, Nat.add_comm]
  simp only [hrev, countP_finRange_perm Fin.revPerm fun i => v.getLsbD i]
  rw [← List.map_coe_finRange_eq_range, List.countP_map]
  rfl

/-- The zeros above a result do not count. -/
theorem countP_getLsbD_result {W : Nat} (v : BitVec W) (hW : W ≤ 64) :
    (List.range 64).countP (fun k => (result v).getLsbD k) = (List.finRange W).countP (fun i : Fin W => blockBit v i) := by
  have habove : (List.range (64 - W)).countP (fun k => (result v).getLsbD (W + k)) = 0 :=
    List.countP_eq_zero.mpr fun k hk => by
      rw [getLsbD_result v (by have := List.mem_range.mp hk; omega), BitVec.getLsbD_of_ge v (W + k) (by omega)]
      decide
  have hbelow : (List.range W).countP (fun k => (result v).getLsbD k) = (List.range W).countP (fun k => v.getLsbD k) :=
    List.countP_congr fun k hk => by rw [getLsbD_result v (by have := List.mem_range.mp hk; omega)]
  have hsplit : List.range 64 = List.range W ++ (List.range (64 - W)).map (W + ·) := by
    rw [← List.range_add, Nat.add_sub_cancel' hW]
  rw [hsplit, List.countP_append, hbelow, countP_getLsbD, List.countP_map]
  exact Nat.add_eq_left.mpr habove

/-! ## The stages -/

section stages
variable {T : Tables}

theorem expandHalf_zero (T : Tables) : expandHalf T 0 = 0 := select_zero T.e

theorem permuteHalf_zero (T : Tables) : permuteHalf T 0 = 0 := select_zero T.p

/-- `expand` keeps all ones (43_round_function.md R146). -/
theorem expandHalf_allOnes (hE : T.ExpansionOk) : expandHalf T (BitVec.allOnes 32) = BitVec.allOnes 48 := select_allOnes hE.1

/-- `permute` keeps all ones (43_round_function.md R149). -/
theorem permuteHalf_allOnes (hP : T.PermutationOk) : permuteHalf T (BitVec.allOnes 32) = BitVec.allOnes 32 :=
  select_allOnes hP.1

/-- `permute` moves the bits as the permutation of `P` does. -/
theorem blockBit_permuteHalf {σ : Equiv.Perm (Fin 32)} (hσ : ∀ i, T.p[i].toNat = σ i + 1) (x : Half) (i : Fin 32) :
    blockBit (permuteHalf T x) i = blockBit x (σ i) := by
  have hsource : blockBit (permuteHalf T x) i = blockBit x (T.p[i].toNat - 1) := blockBit_select T.p x i.isLt
  rw [hsource, hσ, Nat.add_sub_cancel]

/-- The number of 1 bits is kept, since only their order changes (43_round_function.md R149). -/
theorem countP_permuteHalf (hP : T.PermutationOk) (x : Half) :
    (List.range 32).countP (fun k => (permuteHalf T x).getLsbD k) = (List.range 32).countP (fun k => x.getLsbD k) := by
  obtain ⟨σ, hσ⟩ := hP.exists_perm
  rw [countP_getLsbD, countP_getLsbD]
  simp only [blockBit_permuteHalf hσ]
  exact countP_finRange_perm σ fun i => blockBit x i

/-- A single 1 moves to the place whose entry names it (43_round_function.md R153). -/
theorem permuteHalf_oneBit {σ : Equiv.Perm (Fin 32)} (hσ : ∀ i, T.p[i].toNat = σ i + 1) (b : Fin 32) :
    permuteHalf T (1#32 <<< (31 - b.val)) = 1#32 <<< (31 - (σ.symm b).val) := by
  refine block_ext fun i hi => ?_
  have hmove : blockBit (permuteHalf T (1#32 <<< (31 - b.val))) i = blockBit (1#32 <<< (31 - b.val)) (σ ⟨i, hi⟩) :=
    blockBit_permuteHalf hσ _ ⟨i, hi⟩
  rw [hmove, blockBit_oneBit b.isLt (σ ⟨i, hi⟩).isLt, blockBit_oneBit (σ.symm b).isLt hi]
  exact decide_eq_decide.mpr (by rw [← Fin.ext_iff, ← Equiv.eq_symm_apply, Fin.ext_iff])

end stages

/-! ## Chunks and slots -/

theorem toNat_blockBit {W : Nat} (v : BitVec W) {i : Nat} (hi : i < W) :
    (blockBit v i).toNat = v.toNat / 2 ^ (W - 1 - i) % 2 := by
  rw [blockBit_eq_getLsbD v hi, ← BitVec.testBit_toNat, Nat.toNat_testBit]

/-- Consecutive block indices are consecutive integer bits. -/
theorem blockBit_extractLsb' {W start len i : Nat} (v : BitVec W) (h : start + len ≤ W) (hi : i < len) :
    blockBit (v.extractLsb' start len) i = blockBit v (W - (start + len) + i) := by
  rw [blockBit_eq_getLsbD _ hi, blockBit_eq_getLsbD v (by omega), BitVec.getLsbD_extractLsb', decide_eq_true (by omega),
    Bool.true_and]
  congr 1
  omega

theorem toNat_extractLsb' {W : Nat} (v : BitVec W) (start len : Nat) :
    (v.extractLsb' start len).toNat = v.toNat / 2 ^ start % 2 ^ len := by
  rw [BitVec.extractLsb'_toNat, Nat.shiftRight_eq_div_pow]

/-- Bits below an operand's width are those of its word (30_encoding.md R68). -/
theorem extractLsb'_operand {W start len : Nat} (a : Word) (h : start + len ≤ W) :
    (operand W a).extractLsb' start len = a.extractLsb' start len :=
  BitVec.extractLsb'_setWidth_of_le h

/-- Chunk `j` is `y[47-6j:42-6j]` (43_round_function.md R148). -/
theorem chunkOf_eq_extractLsb' (y : BitVec 48) {j : Nat} (hj : j < 8) : chunkOf y j = y.extractLsb' (42 - 6 * j) 6 := by
  refine block_ext fun i hi => ?_
  rw [chunkOf, blockBit_blockOfBits, decide_eq_true hi, Bool.true_and, blockBit_extractLsb' y (by omega) hi]
  congr 1
  omega

/-- Slot `j` of the substituted half is `z[31-4j:28-4j]` (43_round_function.md R148). -/
theorem extractLsb'_substitute (T : Tables) (y : BitVec 48) {j : Nat} (hj : j < 8) :
    (substitute T y).extractLsb' (28 - 4 * j) 4 = sboxLookup T (chunkOf y j) := by
  refine block_ext fun i hi => ?_
  rw [← blockBit_substitute T y hj hi, blockBit_extractLsb' _ (by omega) hi]
  congr 1
  omega

/-- The row is the first and the last bit of the chunk (43_round_function.md R152). -/
theorem sboxRow_eq (c : Chunk) : sboxRow c = 2 * (c.toNat / 32) + c.toNat % 2 := by
  have hc := c.isLt
  rw [sboxRow, toNat_blockBit c (by decide), toNat_blockBit c (by decide)]
  omega

/-- The column is the four bits between (43_round_function.md R152). -/
theorem sboxCol_eq (c : Chunk) : sboxCol c = c.toNat / 2 % 16 := by
  rw [sboxCol, toNat_blockBit c (by decide), toNat_blockBit c (by decide), toNat_blockBit c (by decide),
    toNat_blockBit c (by decide)]
  omega

theorem sboxRow_lt (c : Chunk) : sboxRow c < 4 := by
  have hc := c.isLt
  rw [sboxRow_eq]
  omega

theorem sboxCol_lt (c : Chunk) : sboxCol c < 16 := by
  rw [sboxCol_eq]
  omega

/-- The S-box value of a chunk is the entry at its row and column (41_tables.md R112). -/
theorem sboxLookup_eq (T : Tables) {c : Chunk} {row : Fin 4} {col : Fin 16} (hrow : row.val = sboxRow c)
    (hcol : col.val = sboxCol c) : sboxLookup T c = T.sbox[row][col] := by
  simp only [sboxLookup, readSbox, ← hrow, ← hcol, Nat.mod_eq_of_lt row.isLt, Nat.mod_eq_of_lt col.isLt]
  rfl

/-- A number is the sum of its hexadecimal digits at their weights. -/
theorem sum_hexDigit_eq_mod (x n : Nat) : ∑ k ∈ Finset.range n, x / 16 ^ k % 16 * 16 ^ k = x % 16 ^ n := by
  induction n with
  | zero => simp [Nat.mod_one]
  | succ n ih => rw [Finset.sum_range_succ, ih, Nat.mod_pow_succ, Nat.mul_comm]

/-- Eight equal chunks give eight equal slots. -/
theorem toNat_substitute_of_chunks (T : Tables) {y : BitVec 48} {c : Chunk} (h : ∀ j < 8, chunkOf y j = c) :
    (substitute T y).toNat = 0x11111111 * (sboxLookup T c).toNat := by
  have hdigit : ∀ k ∈ Finset.range 8, (substitute T y).toNat / 16 ^ k % 16 * 16 ^ k = (sboxLookup T c).toNat * 16 ^ k := by
    intro k hk
    have hk : k < 8 := Finset.mem_range.mp hk
    have hstart : 28 - 4 * (7 - k) = 4 * k := by omega
    rw [← h (7 - k) (by omega), ← extractLsb'_substitute T y (by omega), toNat_extractLsb', hstart, Nat.pow_mul]
    rfl
  calc (substitute T y).toNat
      = ∑ k ∈ Finset.range 8, (substitute T y).toNat / 16 ^ k % 16 * 16 ^ k := by
        rw [sum_hexDigit_eq_mod]
        exact (Nat.mod_eq_of_lt (substitute T y).isLt).symm
    _ = (sboxLookup T c).toNat * ∑ k ∈ Finset.range 8, 16 ^ k := by rw [Finset.sum_congr rfl hdigit, ← Finset.mul_sum]
    _ = 0x11111111 * (sboxLookup T c).toNat := Nat.mul_comm _ _

theorem toNat_substitute_zero (T : Tables) : (substitute T 0).toNat = 0x11111111 * T.sbox[0][0].toNat := by
  rw [toNat_substitute_of_chunks T (c := 0) (by decide), sboxLookup_eq T (row := 0) (col := 0) (by decide) (by decide)]
  rfl

theorem toNat_substitute_allOnes (T : Tables) :
    (substitute T (BitVec.allOnes 48)).toNat = 0x11111111 * T.sbox[3][15].toNat := by
  rw [toNat_substitute_of_chunks T (c := BitVec.allOnes 6) (by decide),
    sboxLookup_eq T (row := 3) (col := 15) (by decide) (by decide)]
  rfl

/-! ## What the commands answer -/

/-- A result has no bit above its width (30_encoding.md R69). -/
theorem toNat_result_lt {W : Nat} (v : BitVec W) (hW : W ≤ 64) : (result v).toNat < 2 ^ W :=
  (toNat_result v hW).trans_lt v.isLt

section answers
variable (a b : Word) (s : State)

theorem exec_expand :
    exec (.expand a) s = .next (s.answer ⟨0, result (expandHalf Config.tables (operand 32 a))⟩) := rfl
theorem exec_subst :
    exec (.subst a) s = .next (s.answer ⟨0, result (substitute Config.tables (operand 48 a))⟩) := rfl
theorem exec_permute :
    exec (.permute a) s = .next (s.answer ⟨0, result (permuteHalf Config.tables (operand 32 a))⟩) := rfl
theorem exec_bbxor48 :
    exec (.bbxor48 a b) s = .next (s.answer ⟨0, result (mix (operand 48 a) (operand 48 b))⟩) := rfl
theorem exec_feistel :
    exec (.feistel a b) s = .next (s.answer ⟨0, result (feistel Config.tables (operand 32 a) (operand 48 b))⟩) := rfl

end answers

/-- An operand of the width of a result is the block the result holds (30_encoding.md R68, R69). -/
@[simp] theorem operand_result {W : Nat} (v : BitVec W) (hW : W ≤ 64) : operand W (result v) = v :=
  (BitVec.setWidth_setWidth_of_le v hW).trans v.setWidth_eq

/-- A subkey that is the expanded half cancels it (43_round_function.md R154). -/
theorem feistel_expandHalf (T : Tables) (r : Half) : feistel T r (expandHalf T r) = permuteHalf T (substitute T 0) := by
  rw [feistel, mix, BitVec.xor_self]
  rfl

theorem feistel_zero (T : Tables) : feistel T 0 0 = permuteHalf T (substitute T 0) := by
  rw [← feistel_expandHalf T 0, expandHalf_zero]

/-! ## The obligations -/

/-- Settles O21: the row and the column are what two and four bits can make. -/
theorem sboxIndicesNeedNoReduction : Obligations.SboxIndicesNeedNoReduction := fun c =>
  ⟨sboxRow_lt c, sboxCol_lt c, Nat.mod_eq_of_lt (sboxRow_lt c), Nat.mod_eq_of_lt (sboxCol_lt c)⟩

/-- Settles O19: the count of R113 is a count of places, and every source index has one. -/
theorem expandIsInjective : Obligations.ExpandIsInjective := by
  rintro T ⟨hE, -, -⟩
  exact ⟨getLsbD_select hE.1, hE.countP_entry, expandHalf_zero T, expandHalf_allOnes hE,
    select_injective fun k hk => hE.exists_entry hk⟩

/-- Settles O23: `P` is a permutation of the block indices; an injective map of a finite type to itself is bijective. -/
theorem permuteIsABijectionKeepingOnes : Obligations.PermuteIsABijectionKeepingOnes := by
  rintro T ⟨-, hP, -⟩
  exact ⟨getLsbD_select hP.1, Finite.injective_iff_bijective.mp (permuteHalf_injective hP), permuteHalf_zero T,
    permuteHalf_allOnes hP, countP_permuteHalf hP⟩

/-- Settles O18: selection under `E`, of any word, of all ones and of a single 1. -/
theorem expandSelectsSourceBits : Obligations.ExpandSelectsSourceBits := by
  obtain ⟨hE, -, -⟩ := Config.tables_wf
  have hplaces (b : Fin 32) (i : Fin 48) : blockBit (expandHalf Config.tables (1#32 <<< (31 - b.val))) i =
      (Config.tables.e[i].toNat == b.val + 1) := blockBit_select_oneBit hE.1 b.isLt i
  refine ⟨fun a b => decode_of_encode_word rfl rfl rfl,
    fun a s => ⟨_, exec_expand a s, toNat_result_lt _ (by decide), getLsbD_result_select hE.1 (by decide) a⟩,
    fun s => ⟨?zero, ?ones⟩,
    fun b => ⟨result (expandHalf Config.tables (1#32 <<< (31 - b.val))), fun s => ?oneBit, fun i => ?places, ?count⟩,
    by decide +kernel, by decide +kernel, fun w a b hop hw => decode_eq_error_of_ne_bare hop (by decide) hw⟩
  case zero =>
    have hzero : operand 32 0 = 0 := rfl
    rw [exec_expand, hzero, expandHalf_zero]
    rfl
  case ones =>
    have hones : operand 32 0xFFFFFFFF = BitVec.allOnes 32 := rfl
    rw [exec_expand, hones, expandHalf_allOnes hE]
    rfl
  case oneBit =>
    rw [exec_expand, operand_oneBit]
    rfl
  case places =>
    rw [getLsbD_result _ (by omega), ← blockBit_eq_getLsbD _ i.isLt, hplaces, beq_iff_eq]
  case count =>
    rw [countP_getLsbD_result _ (by decide)]
    simp only [hplaces]
    exact hE.countP_entry b

/-- Settles O22: selection under `P`, a permutation, of any word, of all ones and of a single 1. -/
theorem permuteSelectsSourceBits : Obligations.PermuteSelectsSourceBits := by
  obtain ⟨-, hP, -⟩ := Config.tables_wf
  obtain ⟨σ, hσ⟩ := hP.exists_perm
  refine ⟨fun a b => decode_of_encode_word rfl rfl rfl,
    fun a s => ⟨_, exec_permute a s, toNat_result_lt _ (by decide), getLsbD_result_select hP.1 (by decide) a⟩,
    fun s => ⟨?zero, ?ones⟩,
    fun b => ⟨σ.symm b, fun j => ?unique, fun s => ?oneBit⟩, by decide +kernel, by decide +kernel, by decide +kernel,
    fun w a b hop hw => decode_eq_error_of_ne_bare hop (by decide) hw⟩
  case zero =>
    have hzero : operand 32 0 = 0 := rfl
    rw [exec_permute, hzero, permuteHalf_zero]
    rfl
  case ones =>
    have hones : operand 32 0xFFFFFFFF = BitVec.allOnes 32 := rfl
    rw [exec_permute, hones, permuteHalf_allOnes hP]
    rfl
  case unique =>
    rw [hσ, Equiv.eq_symm_apply, Fin.ext_iff, Nat.add_right_cancel_iff]
  case oneBit =>
    rw [exec_permute, operand_oneBit, permuteHalf_oneBit hσ, result_oneBit]
    rfl

/-- Settles O20: a slot is the S-box entry at the row and column of its chunk, and eight equal chunks give eight equal slots. -/
theorem substLooksUpEachChunk : Obligations.SubstLooksUpEachChunk := by
  refine ⟨fun a b => decode_of_encode_word rfl rfl rfl,
    fun a s => ⟨_, exec_subst a s, toNat_result_lt _ (by decide), fun j c row col hj hc hrow hcol => ?slot⟩,
    fun s => ⟨?zero, ?ones⟩,
    by decide +kernel, by decide +kernel, by decide +kernel, fun w a b hop hw => decode_eq_error_of_ne_bare hop (by decide) hw⟩
  case slot =>
    have hchunk : (chunkOf (operand 48 a) j).toNat = c := by
      rw [chunkOf_eq_extractLsb' _ hj, extractLsb'_operand a (by omega), hc]
      exact toNat_extractLsb' _ _ 6
    have hentry : sboxLookup Config.tables (chunkOf (operand 48 a) j) = Config.tables.sbox[row][col] :=
      sboxLookup_eq _ (by rw [hrow, sboxRow_eq, hchunk]) (by rw [hcol, sboxCol_eq, hchunk])
    rw [toNat_result _ (by decide), ← hentry, ← extractLsb'_substitute _ _ hj]
    exact (toNat_extractLsb' _ _ 4).symm
  case zero =>
    have hzero : operand 48 0 = 0 := rfl
    rw [exec_subst, hzero, result_eq_ofNat, toNat_substitute_zero]
    rfl
  case ones =>
    have hones : operand 48 0xFFFFFFFFFFFF = BitVec.allOnes 48 := rfl
    rw [exec_subst, hones, result_eq_ofNat, toNat_substitute_allOnes]
    rfl

/-- Settles O24: each stage reads as its operand the block that the stage before it answered. -/
theorem feistelIsTheCompositionOfTheStageCommands : Obligations.FeistelIsTheCompositionOfTheStageCommands := by
  have hzero : feistel Config.tables (operand 32 0) (operand 48 0) = permuteHalf Config.tables (substitute Config.tables 0) :=
    feistel_zero Config.tables
  refine ⟨fun a b => decode_of_encode_word rfl rfl rfl, fun a b => ?chain, fun s => ?atZero,
    by decide +kernel, by decide +kernel, by decide +kernel, fun w a b hop hw => decode_eq_error_of_ne_bare hop (by decide) hw⟩
  case chain =>
    refine ⟨_, _, _, _, fun s => ⟨exec_expand a s, exec_bbxor48 _ b s, exec_subst _ s, exec_permute _ s, ?composition, ?cancels⟩⟩
    case composition =>
      simp only [operand_result, Nat.reduceLeDiff]
      exact exec_feistel a b s
    case cancels =>
      rw [exec_feistel, exec_feistel, operand_result _ (by decide), feistel_expandHalf, hzero]
  case atZero =>
    rw [exec_feistel, hzero, ← toNat_substitute_zero, ← result_eq_ofNat, exec_permute, operand_result _ (by decide)]

end Sys2Proof.Machine

/-! # The block cipher driver (44_driver.md)

The halves of the sixteen rounds are fixed by their recurrence; a transition of the sequencer is one assignment of R177; and as long
as no reset is pending, steps of the machine on an `ENCODE` in flight are transitions of the sequencer. -/

namespace Sys2Proof.Machine

/-! ## The halves -/

theorem toNat_leftHalf (b : Word) : (leftHalf b).toNat = b.toNat / 2 ^ 32 := by
  rw [leftHalf, toNat_extractLsb', Nat.mod_eq_of_lt (by have := b.isLt; omega)]

theorem toNat_rightHalf (b : Word) : (rightHalf b).toNat = b.toNat % 2 ^ 32 := by
  rw [rightHalf, toNat_extractLsb', Nat.pow_zero, Nat.div_one]

/-- `SK[RND]` is the entry of the file with that number (20_memory.md R46). -/
theorem readSubkey_ofNat (sk : SubkeyFile) (r : Fin 16) : readSubkey sk (BitVec.ofNat 4 r) = sk[r] := by
  have hr : (BitVec.ofNat 4 r.val).toNat = r.val := Nat.mod_eq_of_lt r.isLt
  simp only [readSubkey, hr, Fin.getElem_fin]

/-- The ciphertext has `R_16` in its high half (44_driver.md R174). -/
theorem encodeBlock_eq_append (T : Tables) (sk : SubkeyFile) (pt : Word) :
    encodeBlock T sk pt = (halvesAfter T sk pt 16).2 ++ (halvesAfter T sk pt 16).1 := rfl

/-- The split and the rounds of 44_driver.md R172 and R173 leave one choice for each `(L_n, R_n)`. -/
theorem halvesAfter_eq_of_recurrence {T : Tables} {sk : SubkeyFile} {pt : Word} {L R : Nat → Half}
    (hL : (L 0).toNat = pt.toNat / 2 ^ 32) (hR : (R 0).toNat = pt.toNat % 2 ^ 32)
    (hround : ∀ r : Fin 16, L (r + 1) = R r ∧ R (r + 1) = L r ^^^ feistel T (R r) sk[r]) {n : Nat} (hn : n ≤ 16) :
    halvesAfter T sk pt n = (L n, R n) := by
  induction n with
  | zero =>
    have hleft : leftHalf pt = L 0 := BitVec.eq_of_toNat_eq ((toNat_leftHalf pt).trans hL.symm)
    have hright : rightHalf pt = R 0 := BitVec.eq_of_toNat_eq ((toNat_rightHalf pt).trans hR.symm)
    rw [halvesAfter, initialPermutation, hleft, hright]
  | succ n ih =>
    obtain ⟨hLn, hRn⟩ := hround ⟨n, hn⟩
    rw [halvesAfter, ih (Nat.le_of_succ_le hn), readSubkey_ofNat sk ⟨n, hn⟩, roundStep, hLn, hRn]

/-! ## One transition -/

section transition
variable {s : State}

section byPhase
variable (hr : ∀ rest, s.host ≠ .reset :: rest)
include hr

theorem step_of_initial (hp : s.phase = .initial) : step s = .next (seqInitial s) := by
  rw [step_inFlight (by simp [hp]) hr, seqStep, hp]

theorem step_of_round (hp : s.phase = .round) : step s = .next (seqRound Config.tables s) := by
  rw [step_inFlight (by simp [hp]) hr, seqStep, hp]

theorem step_of_final (hp : s.phase = .final) : step s = .next (seqFinal s) := by
  rw [step_inFlight (by simp [hp]) hr, seqStep, hp]

end byPhase

/-- The last round goes on to `FINAL` and leaves `RND` at 15 (44_driver.md R177). -/
theorem seqRound_of_rnd_eq (T : Tables) (h : s.rnd = 15) :
    seqRound T s =
      { s with l := s.r, r := s.l ^^^ feistel T s.r (readSubkey s.subkeys s.rnd), phase := .final, rsp := none } := by
  rw [seqRound, if_pos h]
  rfl

/-- Every other round goes on to the next (44_driver.md R177). -/
theorem seqRound_of_rnd_ne (T : Tables) (h : s.rnd ≠ 15) :
    seqRound T s =
      { s with l := s.r, r := s.l ^^^ feistel T s.r (readSubkey s.subkeys s.rnd), rnd := s.rnd + 1, rsp := none } := by
  rw [seqRound, if_neg h]
  rfl

end transition

/-! ## Steps of an `ENCODE` in flight -/

/-- A step that goes on is the first of a run. -/
theorem run_succ_of_step {M : Host.Core} {x y : M.State} (h : M.step x = .next y) (n : Nat) :
    M.run (n + 1) x = M.run n y := by
  rw [Host.Core.run, h]

/-- While an `ENCODE` is in flight and no reset is pending, steps are transitions (44_driver.md R177; log 6). -/
theorem run_eq_seqRun {s : State} {n : Nat} (hr : ∀ rest, s.host ≠ .reset :: rest)
    (hflight : ∀ m < n, (seqRun Config.tables m s).phase ≠ .idle) : core.run n s = .next (seqRun Config.tables n s) := by
  induction n generalizing s with
  | zero => rfl
  | succ n ih =>
    have hfirst : core.run (n + 1) s = core.run n (seqStep Config.tables s) :=
      run_succ_of_step (M := core) (step_inFlight (hflight 0 n.succ_pos) hr) n
    have hlater := ih (s := seqStep Config.tables s) (by simpa using hr) fun m hm => hflight (m + 1) (Nat.succ_lt_succ hm)
    exact hfirst.trans hlater

section accepted
variable {s : State} {sk : SubkeyFile} (pt : Word)

/-- From acceptance an `ENCODE` stays in flight until its eighteenth transition (44_driver.md R177). -/
theorem seqRun_acceptEncode_inFlight (T : Tables) (hk : s.inst = .keyed sk) {m : Nat} (hm : m < 18) :
    (seqRun T m (acceptEncode pt s)).phase ≠ .idle := by
  cases m with
  | zero => simp [seqRun]
  | succ r =>
    by_cases hr : r < 16
    · obtain ⟨hp, -⟩ := seqRun_rounds T pt hk hr
      simp [hp]
    · obtain rfl : r = 16 := by omega
      obtain ⟨hp, -⟩ := seqRun_sixteen T pt hk
      simp [hp]

theorem run_acceptEncode (hk : s.inst = .keyed sk) (hr : ∀ rest, s.host ≠ .reset :: rest) {n : Nat} (hn : n ≤ 18) :
    core.run n (acceptEncode pt s) = .next (seqRun Config.tables n (acceptEncode pt s)) :=
  run_eq_seqRun hr fun _ hm => seqRun_acceptEncode_inFlight pt _ hk (Nat.lt_of_lt_of_le hm hn)

/-- The eighteen steps end where the whole command ends (44_driver.md R178). -/
theorem run_eighteen_acceptEncode (hk : s.inst = .keyed sk) (hr : ∀ rest, s.host ≠ .reset :: rest) :
    core.run 18 (acceptEncode pt s) = .next (s.encoded (encodeBlock Config.tables sk pt)) := by
  rw [run_acceptEncode pt hk hr (Nat.le_refl 18), seqRun_encode _ pt hk]
  rfl

end accepted

/-! ## The obligations -/

/-- Settles O29: the recurrence has one solution, the halves that the command computes. -/
theorem encodeIsSixteenFeistelRounds : Obligations.EncodeIsSixteenFeistelRounds := by
  refine ⟨fun a b => decode_of_encode_word rfl rfl rfl,
    fun s pt sk hk => ⟨_, exec_encode_of_keyed pt hk, hk, rfl, rfl, fun L R hL hR hround => ?ciphertext⟩,
    fun s pt hempty => exec_encode_of_empty pt hempty,
    by decide +kernel, by decide +kernel, fun w a b hop hw => decode_eq_error_of_ne_bare hop (by decide) hw⟩
  rw [State.encoded_rsp, encodeBlock_eq_append, halvesAfter_eq_of_recurrence hL hR hround (Nat.le_refl 16)]

/-- Settles O30, phase by phase. -/
theorem sequencerTransitions : Obligations.SequencerTransitions := by
  intro s hr
  refine ⟨fun hp => ?initial, fun sk hp hk f hf => ?round, fun hp => ?final⟩
  case initial => exact ⟨leftHalf s.blk, rightHalf s.blk, toNat_leftHalf _, toNat_rightHalf _, step_of_initial hr hp⟩
  case round =>
    have hvalue : f = feistel Config.tables s.r (readSubkey s.subkeys s.rnd) := by
      rw [State.subkeys_keyed hk]
      exact hf s.rnd.toFin rfl
    rw [step_of_round hr hp, hvalue]
    exact ⟨fun h => congrArg _ (seqRound_of_rnd_eq _ h), fun h => congrArg _ (seqRound_of_rnd_ne _ h)⟩
  case final => exact ⟨seqFinal s, step_of_final hr hp, seqFinal_rsp s, seqFinal_phase s, seqFinal_inst s, seqFinal_host s⟩

/-- Settles O31: the steps are the transitions, and the transitions are the rounds. -/
theorem sequencerStepsComputeTheCommand : Obligations.SequencerStepsComputeTheCommand := by
  intro s pt sk hk hr
  have hend := run_eighteen_acceptEncode pt hk hr
  refine ⟨hend.trans (exec_encode_of_keyed pt hk).symm, fun r hlt => ?rounds, ?sixteen, ⟨_, hend, rfl, hk, rfl⟩⟩
  case rounds =>
    obtain ⟨hp, hrnd, hhalves, hrsp, -⟩ := seqRun_rounds Config.tables pt hk hlt
    rw [Nat.add_comm]
    exact ⟨_, run_acceptEncode pt hk hr (by omega), hp, by rw [hrnd]; exact Nat.mod_eq_of_lt hlt, hhalves, hrsp⟩
  case sixteen =>
    obtain ⟨hp, hhalves, hrsp, -⟩ := seqRun_sixteen Config.tables pt hk
    exact ⟨_, run_acceptEncode pt hk hr (by decide), hp, hhalves, hrsp⟩

end Sys2Proof.Machine

/-! # System commands and the host adapter (45_system_and_host.md)

The two system commands and their words; the adapter's bit strings, whose parser is the inverse of their renderer; and the
adapter's calls, each of which is one command sent to a core that is ready. -/

namespace Sys2Proof.Machine

/-! ## System commands -/

section system
variable {s : State}

/-- `STATUS` with no key loaded (45_system_and_host.md R190). -/
theorem exec_status_of_empty (h : s.inst = .empty) : exec .status s = .next (s.answer ⟨0, 0x1000⟩) := by
  have hword : statusWord s = 0x1000 := by
    rw [statusWord, State.keyv_eq_false.mpr h]
    decide
  rw [exec, execStatus, hword, respond_eq]

/-- `STATUS` with a key loaded (45_system_and_host.md R190). -/
theorem exec_status_of_keyed {sk : SubkeyFile} (h : s.inst = .keyed sk) :
    exec .status s = .next (s.answer ⟨0, 0x1001⟩) := by
  have hword : statusWord s = 0x1001 := by
    rw [statusWord, State.keyv_eq_true.mpr ⟨sk, h⟩]
    decide
  rw [exec, execStatus, hword, respond_eq]

/-- `DISCARD`, whatever `KEYV` is (45_system_and_host.md R192). -/
theorem exec_discard : exec .discard s = .next ({ s with inst := .empty }.answer ⟨0, 0⟩) := respond_eq 0 _

end system

/-- Settles O32: the status word at each value of `KEYV`. -/
theorem statusReturnsVersionAndKeyv : Obligations.StatusReturnsVersionAndKeyv :=
  ⟨fun _ _ => decode_of_encode_word rfl rfl rfl, fun _ hempty => exec_status_of_empty hempty,
    fun _ _ hkeyed => exec_status_of_keyed hkeyed, fun _ _ _ hop hw => decode_eq_error_of_ne_bare hop (by decide) hw⟩

/-- Settles O33: what `DISCARD` leaves has no key, so `LOADKEY` is not locked there. -/
theorem discardEndsTheInstance : Obligations.DiscardEndsTheInstance := by
  refine ⟨fun a b => decode_of_encode_word rfl rfl rfl, fun s => exec_discard, fun s t hp h => ?asAfterReset,
    fun w a b hop hw => decode_eq_error_of_ne_bare hop (by decide) hw⟩
  cases Host.Outcome.next.inj (exec_discard.symm.trans h)
  exact ⟨rfl, hp, fun K => ⟨schedule K, exec_loadkey_of_empty K rfl⟩⟩

/-! ## Bit strings -/

section strings
variable {W : Nat} {s : List Char}

theorem isBitChar_iff {c : Char} : isBitChar c = true ↔ c = '0' ∨ c = '1' := by
  simp [isBitChar]

/-- The length is checked first (60_exceptions.md R224). -/
theorem parseBits_of_length_ne (h : s.length ≠ W) : parseBits W s = .error .invalidLength := if_pos h

theorem parseBits_of_badChar (hlen : s.length = W) (h : ∃ c ∈ s, c ≠ '0' ∧ c ≠ '1') :
    parseBits W s = .error .invalidCharacter := by
  obtain ⟨c, hc, hbad⟩ := h
  have hall : ¬ s.all isBitChar = true := fun hall =>
    not_or.mpr hbad (isBitChar_iff.mp (List.all_eq_true.mp hall c hc))
  rw [parseBits, if_neg (not_not_intro hlen), if_neg hall]

theorem parseBits_of_bitChars (hlen : s.length = W) (h : ∀ c ∈ s, c = '0' ∨ c = '1') :
    parseBits W s = .ok (blockOfBits W fun i => s[i]? == some '1') := by
  have hall : s.all isBitChar = true := List.all_eq_true.mpr fun c hc => isBitChar_iff.mpr (h c hc)
  rw [parseBits, if_neg (not_not_intro hlen), if_pos hall]

/-- The three cases of 45_system_and_host.md R194. -/
theorem bitString_cases (W : Nat) (s : List Char) :
    s.length ≠ W ∨ (s.length = W ∧ ∃ c ∈ s, c ≠ '0' ∧ c ≠ '1') ∨ (s.length = W ∧ ∀ c ∈ s, c = '0' ∨ c = '1') := by
  by_cases hlen : s.length = W
  · by_cases hall : ∀ c ∈ s, c = '0' ∨ c = '1'
    · exact .inr (.inr ⟨hlen, hall⟩)
    · push Not at hall
      exact .inr (.inl ⟨hlen, hall⟩)
  · exact .inl hlen

/-- Only a string of `W` bit characters parses. -/
theorem bitChars_of_parseBits_ok {v : BitVec W} (h : parseBits W s = .ok v) :
    s.length = W ∧ (∀ c ∈ s, c = '0' ∨ c = '1') ∧ v = blockOfBits W fun i => s[i]? == some '1' := by
  obtain hlen | ⟨hlen, hbad⟩ | ⟨hlen, hgood⟩ := bitString_cases W s
  · simp [parseBits_of_length_ne hlen] at h
  · simp [parseBits_of_badChar hlen hbad] at h
  · rw [parseBits_of_bitChars hlen hgood, Except.ok.injEq] at h
    exact ⟨hlen, hgood, h.symm⟩

/-- The parser's errors are the two of the category `InvalidKeyFormat` (60_exceptions.md R223). -/
theorem isInvalidKeyFormat_of_parseBits_error {e : ErrCode} (h : parseBits W s = .error e) :
    isInvalidKeyFormat e = true := by
  obtain hlen | ⟨hlen, hbad⟩ | ⟨hlen, hgood⟩ := bitString_cases W s
  · cases (parseBits_of_length_ne hlen).symm.trans h
    rfl
  · cases (parseBits_of_badChar hlen hbad).symm.trans h
    rfl
  · simp [parseBits_of_bitChars hlen hgood] at h

theorem blockOfBits_congr {f g : Nat → Bool} (h : ∀ i < W, f i = g i) : blockOfBits W f = blockOfBits W g :=
  block_ext fun i hi => by rw [blockBit_blockOfBits, blockBit_blockOfBits, h i hi]

/-- The bits of a string, as a block, are the string read as a binary numeral (45_system_and_host.md R194): one more
character doubles the number and adds its digit. -/
theorem toNat_blockOfBits_string (s : List Char) :
    (blockOfBits s.length fun i => s[i]? == some '1').toNat = s.foldl (fun n c => 2 * n + if c = '1' then 1 else 0) 0 := by
  induction s using List.reverseRecOn with
  | nil => rfl
  | append_singleton xs c ih =>
    have hinit : (blockOfBits xs.length fun i => (xs ++ [c])[i]? == some '1') =
        blockOfBits xs.length fun i => xs[i]? == some '1' :=
      blockOfBits_congr fun i hi => by rw [List.getElem?_append_left hi]
    rw [List.length_append, List.length_singleton, blockOfBits, hinit, List.foldl_append, ← ih]
    by_cases hc : c = '1' <;> simp [BitVec.toNat_concat, hc, Nat.mul_comm]

@[simp] theorem length_renderBits (v : BitVec W) : (renderBits v).length = W := by
  simp [renderBits]

theorem getElem_renderBits (v : BitVec W) {i : Nat} (hi : i < (renderBits v).length) :
    (renderBits v)[i] = if blockBit v i then '1' else '0' := by
  simp [renderBits]

theorem getElem?_renderBits (v : BitVec W) {i : Nat} (hi : i < W) :
    (renderBits v)[i]? = some (if blockBit v i then '1' else '0') := by
  rw [List.getElem?_eq_getElem ((length_renderBits v).symm ▸ hi), getElem_renderBits]

theorem bitChar_of_mem_renderBits {v : BitVec W} {c : Char} (h : c ∈ renderBits v) : c = '0' ∨ c = '1' := by
  obtain ⟨i, -, rfl⟩ := List.mem_map.mp h
  cases blockBit v i <;> simp

theorem parseBits_renderBits (v : BitVec W) : parseBits W (renderBits v) = .ok v := by
  rw [parseBits_of_bitChars (length_renderBits v) fun c hc => bitChar_of_mem_renderBits hc]
  refine congrArg _ (block_ext fun i hi => ?_)
  rw [blockBit_blockOfBits, decide_eq_true hi, getElem?_renderBits v hi]
  cases blockBit v i <;> rfl

theorem renderBits_of_parseBits_ok {v : BitVec W} (h : parseBits W s = .ok v) : renderBits v = s := by
  obtain ⟨hlen, hgood, rfl⟩ := bitChars_of_parseBits_ok h
  refine List.ext_getElem ((length_renderBits _).trans hlen.symm) fun i hi hi' => ?_
  rw [getElem_renderBits, blockBit_blockOfBits, decide_eq_true (hlen ▸ hi'), Bool.true_and, List.getElem?_eq_getElem hi']
  obtain hc | hc := hgood s[i] (List.getElem_mem hi') <;> simp [hc]

end strings

/-- Settles O47: one equation of the parser per case, and the numeral by its last character. -/
theorem parseBitsAcceptsExactlyTheBitStrings : Obligations.ParseBitsAcceptsExactlyTheBitStrings := by
  refine fun W s => ⟨parseBits_of_length_ne, parseBits_of_badChar, fun hlen hgood =>
    ⟨_, parseBits_of_bitChars hlen hgood, fun i hi => ?bit, ?numeral⟩⟩
  case bit => rw [blockBit_blockOfBits, decide_eq_true hi, Bool.true_and, beq_iff_eq]
  case numeral =>
    subst hlen
    exact toNat_blockOfBits_string s

/-- Settles O48: the renderer fixes every character, and the parser every bit. -/
theorem renderAndParseAreInverse : Obligations.RenderAndParseAreInverse := fun _ =>
  ⟨fun v => ⟨length_renderBits v, fun _ hi => getElem?_renderBits v hi⟩, parseBits_renderBits,
    fun _ _ h => renderBits_of_parseBits_ok h⟩

/-! ## The adapter's calls -/

section calls
variable {s t : State} {v : HostValue} {k : Word} {e : ErrCode}

/-- An integer of 64 bits stands for itself (40_bitblock.md R97). -/
theorem hostWord_int_toNat (k : Word) : hostWord (.int k.toNat) = .ok k := congrArg _ (blockOfInt_intOfBlock k)

theorem hostNew_of_malformed (h : hostWord v = .error e) : hostNew v s = .rejected e s := by
  rw [hostNew, h]

theorem hostNew_of_word (h : hostWord v = .ok k) :
    hostNew v s = sendCommand (encode (.loadkey k)) (fun _ => ()) s := by
  rw [hostNew, h]

theorem hostEncode_of_malformed (h : hostWord v = .error e) : hostEncode v s = .rejected e s := by
  rw [hostEncode, h]

theorem hostEncode_of_word (h : hostWord v = .ok k) :
    hostEncode v s = sendCommand (encode (.encode k)) (fun ct => (ct, renderBits ct)) s := by
  rw [hostEncode, h]

/-- `new` of an integer is `LOADKEY` of its low 64 bits (45_system_and_host.md R196). -/
theorem hostNew_int (n : Nat) :
    hostNew (.int n) s = sendCommand (encode (.loadkey (BitVec.ofNat 64 n))) (fun _ => ()) s :=
  hostNew_of_word rfl

/-- `encode` of an integer is `ENCODE` of its low 64 bits (45_system_and_host.md R197). -/
theorem hostEncode_int (n : Nat) :
    hostEncode (.int n) s = sendCommand (encode (.encode (BitVec.ofNat 64 n))) (fun ct => (ct, renderBits ct)) s :=
  hostEncode_of_word rfl

/-- A well-formed command is answered in every state (70_reset_and_hazards.md R253). -/
theorem exec_answers {i : Instr} (hi : i.wellFormed = true) (s : State) :
    ∃ t x, exec i s = .next t ∧ t.rsp = some x := by
  obtain ⟨t, ht⟩ := runCommand_total (encode i) s
  obtain ⟨⟨x, hx⟩, -, -⟩ := runCommand_frame ht
  exact ⟨t, x, (runCommand_of_decode (encodingRoundTripsEveryWellFormedInstruction i hi)).symm.trans ht, hx⟩

section send
variable {α : Type} (f : Word → α) {i : Instr} (hready : s.cmdReady = true) (hi : i.wellFormed = true)
include hready hi

/-- The call's state is the command's, and its outcome the command's response. -/
theorem sendCommand_encode {x : Response} (he : exec i s = .next t) (hx : t.rsp = some x) :
    sendCommand (encode i) f s = if x.err = 0 then .done (f x.data) t else .failed x.err t :=
  sendCommand_of_ready f hready (encodingRoundTripsEveryWellFormedInstruction i hi) he hx

theorem sendCommand_done {d : Word} (he : exec i s = .next t) (hx : t.rsp = some ⟨0, d⟩) :
    sendCommand (encode i) f s = .done (f d) t :=
  (sendCommand_encode f hready hi he hx).trans (if_pos rfl)

theorem sendCommand_failed {err : BitVec 4} {d : Word} (herr : err ≠ 0) (he : exec i s = .next t)
    (hx : t.rsp = some ⟨err, d⟩) : sendCommand (encode i) f s = .failed err t :=
  (sendCommand_encode f hready hi he hx).trans (if_neg herr)

/-- A core that is ready answers the call (45_system_and_host.md R198). -/
theorem sendCommand_ne_unanswered (u : State) : sendCommand (encode i) f s ≠ .unanswered u := by
  obtain ⟨t, x, he, hx⟩ := exec_answers hi s
  rw [sendCommand_encode f hready hi he hx]
  split <;> simp

end send

end calls

/-- Settles O49: a string that parses stands for its integer, and an integer is `LOADKEY` of its low 64 bits. -/
theorem hostNewLoadsAValidKeyOrNothing : Obligations.HostNewLoadsAValidKeyOrNothing := by
  intro s hp
  have hready : s.cmdReady = true := cmdReady_iff.mpr hp
  refine ⟨fun str e h => ⟨hostNew_of_malformed h, isInvalidKeyFormat_of_parseBits_error h⟩,
    fun str K h => (hostNew_of_word (v := .bits str) h).trans (hostNew_of_word (hostWord_int_toNat K)).symm,
    fun n hempty => ?loaded, fun n sk hkeyed => ?locked⟩
  case loaded => exact (hostNew_int n).trans (sendCommand_done _ hready rfl (exec_loadkey_of_empty _ hempty) rfl)
  case locked =>
    exact (hostNew_int n).trans (sendCommand_failed _ hready rfl (by decide) (exec_loadkey_of_keyed _ hkeyed) rfl)

/-- Settles O50: a string that parses stands for its integer, and an integer is `ENCODE` of its low 64 bits. -/
theorem hostEncodeReturnsIntegerAndString : Obligations.HostEncodeReturnsIntegerAndString := by
  intro s hp
  have hready : s.cmdReady = true := cmdReady_iff.mpr hp
  refine ⟨fun str e h => hostEncode_of_malformed h,
    fun str pt h => (hostEncode_of_word (v := .bits str) h).trans (hostEncode_of_word (hostWord_int_toNat pt)).symm,
    fun n sk hkeyed => ⟨s.encoded (encodeBlock Config.tables sk (BitVec.ofNat 64 n)), _, rfl, ?ciphertext, rfl, rfl, rfl⟩,
    fun n hempty => ?noKey⟩
  case ciphertext => exact (hostEncode_int n).trans (sendCommand_done _ hready rfl (exec_encode_of_keyed _ hkeyed) rfl)
  case noKey =>
    exact (hostEncode_int n).trans (sendCommand_failed _ hready rfl (by decide) (exec_encode_of_empty _ hempty) rfl)

/-- Settles O55: each call sends one command, which a core that is ready executes and answers. -/
theorem hostCallsAreTheirCommands : Obligations.HostCallsAreTheirCommands := by
  refine fun s hready => ⟨fun n => ?new, fun n => ?encode, sendCommand_done _ hready rfl exec_discard rfl⟩
  case new =>
    obtain ⟨t, x, he, hx⟩ := exec_answers (i := .loadkey (BitVec.ofNat 64 n)) rfl s
    exact ⟨t, x, he, hx, (hostNew_int n).trans (sendCommand_encode _ hready rfl he hx)⟩
  case encode =>
    obtain ⟨t, x, he, hx⟩ := exec_answers (i := .encode (BitVec.ofNat 64 n)) rfl s
    exact ⟨t, x, he, hx, (hostEncode_int n).trans (sendCommand_encode _ hready rfl he hx)⟩

/-- Settles O56: a call sends its one command, or, of a malformed string, none. -/
theorem hostSendsOnlyWhileReady : Obligations.HostSendsOnlyWhileReady := by
  refine ⟨fun s hbusy => ⟨sendCommand_of_not_ready _ hbusy, fun v => ⟨fun k hw => ?sendsNothing,
      fun e hw => ⟨hostNew_of_malformed hw, hostEncode_of_malformed hw⟩⟩⟩,
    fun s t hready => ⟨sendCommand_ne_unanswered _ hready rfl t, fun v => ?answered⟩⟩
  case sendsNothing =>
    rw [hostNew_of_word hw, hostEncode_of_word hw]
    exact ⟨sendCommand_of_not_ready _ hbusy, sendCommand_of_not_ready _ hbusy⟩
  case answered =>
    cases hw : hostWord v with
    | error e =>
      rw [hostNew_of_malformed hw, hostEncode_of_malformed hw]
      exact ⟨nofun, nofun⟩
    | ok k =>
      rw [hostNew_of_word hw, hostEncode_of_word hw]
      exact ⟨sendCommand_ne_unanswered _ hready rfl t, sendCommand_ne_unanswered _ hready rfl t⟩

end Sys2Proof.Machine

/-! # Errors (60_exceptions.md)

A command that answers an error writes nothing else; and the code of every answer, one cause of R217 to R219 at a time. -/

namespace Sys2Proof.Machine

/-- Settles O36: a command that writes more than its response answers success. -/
theorem anErrorChangesNoState : Obligations.AnErrorChangesNoState := by
  intro i s t x h hx herr
  obtain ⟨y, rfl, -, hdata⟩ | ⟨a, -, -, rfl⟩ | ⟨-, rfl⟩ | ⟨a, sk, -, -, rfl⟩ := exec_cases h <;>
    cases Option.some.inj hx
  · exact ⟨hdata herr, rfl⟩
  · exact absurd rfl herr
  · exact absurd rfl herr
  · exact absurd rfl herr

/-! ## The code of an answer -/

/-- A result that goes on with a response of that code. -/
def AnswersCode (code : BitVec 4) (p : Result) : Prop :=
  ∃ (t : State) (x : Response), p = .next t ∧ t.rsp = some x ∧ x.err = code

section codes
variable {i : Instr} {s : State}

theorem answersCode_answer (s : State) (x : Response) : AnswersCode x.err (.next (s.answer x)) := ⟨_, x, rfl, rfl, rfl⟩

/-- In range, a command that only checks its index succeeds. -/
theorem answersCode_withIndex_of_lt {n b : Nat} {v : n < b → Word} (h : n < b) :
    AnswersCode 0 (withIndex n b s fun hn => respond (v hn) s) := by
  rw [withIndex_of_lt h]
  exact answersCode_answer s ⟨0, v h⟩

/-- Out of range, whatever the check guards (60_exceptions.md R217). -/
theorem answersCode_withIndex_of_ge {n b : Nat} {k : n < b → Result} (h : b ≤ n) :
    AnswersCode 2 (withIndex n b s k) := by
  rw [withIndex_of_ge h]
  exact answersCode_answer s ⟨2, 0⟩

/-- `ERR_INDEX` (60_exceptions.md R217). -/
theorem exec_answersCode_index (h : IndexOutOfRange i) : AnswersCode 2 (exec i s) := by
  cases i with
  | bbget32 n a | bbget48 n a | bbget64 n a | rdsubkey n | rdtabE n | rdtabP n => exact answersCode_withIndex_of_ge h
  | bbset32 n c a | bbset48 n c a | bbset64 n c a => exact answersCode_withIndex_of_ge h
  | _ => exact False.elim h

/-- `ERR_NOKEY` (60_exceptions.md R218). -/
theorem exec_answersCode_noKey (h : NeedsKey i) (hk : s.inst = .empty) : AnswersCode 3 (exec i s) := by
  obtain ⟨pt, rfl⟩ | ⟨n, hn, rfl⟩ := h
  · exact exec_encode_of_empty pt hk ▸ answersCode_answer s ⟨3, 0⟩
  · exact exec_rdsubkey_of_empty hn hk ▸ answersCode_answer s ⟨3, 0⟩

/-- `ERR_KEYLOCKED` (60_exceptions.md R219). -/
theorem exec_answersCode_keyLocked (a : Word) (hk : s.inst ≠ .empty) : AnswersCode 4 (exec (.loadkey a) s) := by
  cases hs : s.inst with
  | empty => exact absurd hs hk
  | keyed sk => exact exec_loadkey_of_keyed a hs ▸ answersCode_answer s ⟨4, 0⟩

/-- A command with none of the three causes succeeds. -/
theorem exec_answersCode_success (hidx : ¬ IndexOutOfRange i) (hkey : ¬ (NeedsKey i ∧ s.inst = .empty))
    (hlock : ¬ ((∃ a, i = .loadkey a) ∧ s.inst ≠ .empty)) : AnswersCode 0 (exec i s) := by
  cases i with
  | loadkey a =>
    have hs : s.inst = .empty := by_contra fun hne => hlock ⟨⟨a, rfl⟩, hne⟩
    exact exec_loadkey_of_empty a hs ▸ answersCode_answer _ ⟨0, 0⟩
  | encode a =>
    cases hs : s.inst with
    | empty => exact absurd ⟨.inl ⟨a, rfl⟩, hs⟩ hkey
    | keyed sk => exact ⟨_, _, exec_encode_of_keyed a hs, rfl, rfl⟩
  | rdsubkey n =>
    have hn : n < 16 := Nat.lt_of_not_le hidx
    cases hs : s.inst with
    | empty => exact absurd ⟨.inr ⟨n, hn, rfl⟩, hs⟩ hkey
    | keyed sk => exact ⟨_, _, exec_rdsubkey_of_keyed ⟨n, hn⟩ hs, rfl, rfl⟩
  | bbget32 n a | bbget48 n a | bbget64 n a | rdtabE n | rdtabP n =>
    exact answersCode_withIndex_of_lt (Nat.lt_of_not_le hidx)
  | bbset32 n c a | bbset48 n c a | bbset64 n c a => exact answersCode_withIndex_of_lt (Nat.lt_of_not_le hidx)
  | status | discard => exact answersCode_answer _ ⟨0, _⟩
  | feistel a b | bbxor32 a b | bbxor48 a b | bbxor64 a b => exact answersCode_answer _ ⟨0, _⟩
  | expand a | subst a | permute a | bbint32 a | bbint48 a | bbint64 a | rdtabS n => exact answersCode_answer _ ⟨0, _⟩

end codes

/-! ## No command has two causes -/

/-- The index check comes before the look at `KEYV` (60_exceptions.md R224). -/
theorem not_needsKey_of_indexOutOfRange {i : Instr} (h : IndexOutOfRange i) : ¬ NeedsKey i := by
  rintro (⟨pt, rfl⟩ | ⟨n, hn, rfl⟩)
  · exact h
  · exact Nat.not_le.mpr hn h

theorem not_loadkey_of_indexOutOfRange {i : Instr} (h : IndexOutOfRange i) : ¬ ∃ a, i = .loadkey a := by
  rintro ⟨a, rfl⟩
  exact h

/-- Settles O37, cause by cause: each cause gives its code and excludes the others. -/
theorem eachErrorCodeExactlyByItsCause : Obligations.EachErrorCodeExactlyByItsCause := by
  intro i s
  by_cases hidx : IndexOutOfRange i
  · obtain ⟨t, x, ht, hx, hcode⟩ := exec_answersCode_index (s := s) hidx
    have hkey : ¬ NeedsKey i := not_needsKey_of_indexOutOfRange hidx
    have hlock : ¬ ∃ a, i = .loadkey a := not_loadkey_of_indexOutOfRange hidx
    exact ⟨t, x, ht, hx, by simp [hcode, hidx, hkey, hlock]⟩
  by_cases hkey : NeedsKey i ∧ s.inst = .empty
  · obtain ⟨hneeds, hempty⟩ := hkey
    obtain ⟨t, x, ht, hx, hcode⟩ := exec_answersCode_noKey hneeds hempty
    exact ⟨t, x, ht, hx, by simp [hcode, hidx, hneeds, hempty]⟩
  by_cases hlock : (∃ a, i = .loadkey a) ∧ s.inst ≠ .empty
  · obtain ⟨⟨a, rfl⟩, hk⟩ := hlock
    obtain ⟨t, x, ht, hx, hcode⟩ := exec_answersCode_keyLocked a hk
    exact ⟨t, x, ht, hx, by simp [hcode, hidx, hk]⟩
  · obtain ⟨t, x, ht, hx, hcode⟩ := exec_answersCode_success hidx hkey hlock
    exact ⟨t, x, ht, hx, by simp [hcode, hidx, hkey, hlock]⟩

end Sys2Proof.Machine

/-! # Reset and hazards (70_reset_and_hazards.md)

Every event has a next state, so no run stops; an `ENCODE` in flight answers, and makes the core ready again, at its last transition
only; and a reset gives the same state whatever was running. -/

namespace Sys2Proof.Machine

/-! ## No event is stuck -/

/-- The `command` event is total and answered (70_reset_and_hazards.md R253). -/
theorem runCommand_answers (c : Command) (s : State) : ∃ t x, runCommand c s = .next t ∧ t.rsp = some x := by
  obtain ⟨t, ht⟩ := runCommand_total c s
  obtain ⟨⟨x, hx⟩, -, -⟩ := runCommand_frame ht
  exact ⟨t, x, ht, hx⟩

/-- A step goes on, whatever its event (70_reset_and_hazards.md R253). -/
theorem step_total (s : State) : ∃ t, step s = .next t := by
  by_cases hr : ∃ rest, s.host = .reset :: rest
  · obtain ⟨rest, hh⟩ := hr
    exact ⟨_, step_reset hh⟩
  by_cases hp : s.phase = .idle
  · match hh : s.host with
    | [] => exact ⟨_, step_nothing hp hh⟩
    | .command c :: rest =>
      obtain ⟨t, ht⟩ := runCommand_total c { s with host := rest }
      exact ⟨t, (step_command hp hh).trans ht⟩
    | .reset :: rest => exact absurd ⟨rest, hh⟩ hr
  · exact ⟨_, step_inFlight hp (not_exists.mp hr)⟩

/-- A run of steps that go on goes on. -/
theorem safeRun_all (n : Nat) (s : State) : SafeRun n s := by
  induction n generalizing s with
  | zero => exact ⟨s, rfl⟩
  | succ n ih =>
    obtain ⟨u, hu⟩ := step_total s
    obtain ⟨t, ht⟩ := ih u
    exact ⟨t, (run_succ_of_step (M := core) hu n).trans ht⟩

/-- Settles O38: the command event is total, so a step is, so a run is. -/
theorem everyStepHasANextState : Obligations.EveryStepHasANextState := ⟨runCommand_answers, step_total, safeRun_all⟩

/-! ## A command waiting behind an `ENCODE` -/

/-- `cmd_ready` is 0 exactly while a command is in flight (10_state.md R27; log 6). -/
theorem cmdReady_eq_false_iff {s : State} : s.cmdReady = false ↔ s.phase ≠ .idle := by
  rw [← Bool.not_eq_true, cmdReady_iff]

section inFlight
variable (T : Tables) {s : State} (hp : s.phase ≠ .idle)
include hp

/-- In flight, only the `FINAL` transition responds (44_driver.md R177). -/
theorem seqStep_rsp_ne_none_iff : (seqStep T s).rsp ≠ none ↔ s.phase = .final := by
  cases h : s.phase with
  | idle => exact absurd h hp
  | initial | round | final => simp [seqStep, h]

/-- In flight, only the `FINAL` transition ends the command (44_driver.md R177). -/
theorem seqStep_phase_eq_idle_iff : (seqStep T s).phase = .idle ↔ s.phase = .final := by
  cases h : s.phase with
  | idle => exact absurd h hp
  | initial | final => simp [seqStep, h]
  | round =>
    simp only [seqStep, seqRound_phase, h]
    split <;> simp

end inFlight

/-- Settles O44: in flight a step is a transition, which takes nothing from the host. -/
theorem noCommandIsAcceptedInFlight : Obligations.NoCommandIsAcceptedInFlight := by
  intro s c rest hp hh
  have hstep : step s = .next (seqStep Config.tables s) := step_inFlight hp (by simp [hh])
  have hready : (seqStep Config.tables s).cmdReady = true ↔ s.phase = .final :=
    cmdReady_iff.trans (seqStep_phase_eq_idle_iff _ hp)
  exact ⟨cmdReady_eq_false_iff.mpr hp, _, hstep, seqStep_host _ s, seqStep_inst _ s, seqStep_rsp_ne_none_iff _ hp, hready⟩

/-! ## Reset -/

/-- What every reset gives, whatever was running (70_reset_and_hazards.md R246, R247). -/
theorem applyReset_values (s : State) : s.applyReset.keyv = false ∧ s.applyReset.phase = .idle ∧
    s.applyReset.cmdReady = true ∧ s.applyReset.rsp = none :=
  ⟨State.keyv_eq_false.mpr s.applyReset_inst, s.applyReset_phase, cmdReady_iff.mpr s.applyReset_phase, s.applyReset_rsp⟩

/-- The reset state is what a reset leaves of itself. -/
theorem applyReset_reset : State.reset.applyReset = State.reset := rfl

/-- Settles O40: the reset state is one that a reset leaves. -/
theorem resetMeetsTheInvariant : Obligations.ResetMeetsTheInvariant := by
  have hinv := inv_applyReset State.reset
  have hvalues := applyReset_values State.reset
  rw [applyReset_reset] at hinv hvalues
  exact ⟨hinv, hvalues⟩

/-- Settles O43: the step is the reset, and it takes only its own event from the host. -/
theorem resetAbandonsWhateverWasRunning : Obligations.ResetAbandonsWhateverWasRunning := by
  intro s rest hh
  obtain ⟨hkeyv, hphase, hready, hrsp⟩ := applyReset_values { s with host := rest }
  exact ⟨_, step_reset hh, hkeyv, hphase, hready, hrsp, State.applyReset_host _⟩

end Sys2Proof.Machine

/-! # What decodes, and the spec's worked words and key literal (30_encoding.md section 6; 90_conflicts.md C1)

An instruction that some command decodes to is a row's well-formed command with the command's own operand words. -/

namespace Sys2Proof

@[simp] theorem Instr.wellFormed_withOperands (a b : Word) (i : Instr) :
    (i.withOperands a b).wellFormed = i.wellFormed := by
  cases i <;> rfl

/-- The word of whatever decodes is selected by a row, which selects the words of well-formed instructions only. -/
theorem wellFormed_of_decode {c : Command} {i : Instr} (h : decode c = .ok i) : i.wellFormed = true := by
  obtain ⟨p, hp, -, hsel⟩ := exists_row_of_decode h
  obtain ⟨j, hj, -, hw⟩ := opcodeRows_selectTheirCommands p hp c.word hsel
  cases h.symm.trans (decode_of_word_eq hj hw)
  exact (j.wellFormed_withOperands c.a c.b).trans hj

/-- Settles O2: well-formedness is read off the rows of R76, and the word off the decoder's checks. -/
theorem decodedWordIsTheWordOfItsInstruction : Obligations.DecodedWordIsTheWordOfItsInstruction :=
  fun _ _ h => ⟨wellFormed_of_decode h, encode_word_of_decode h⟩

/-- Settles O7: a legal word is the encoder's word of the command it names, and an illegal one fails a check of the decoder. -/
theorem workedEncodingsDecode : Obligations.WorkedEncodingsDecode := by
  refine ⟨?_, ?_, ?_, ?_, ?_, ?_, ?_, ?_, ?_, ?reservedOp, ?reservedWidth, ?zeroField, ?unusedIdx, ?unusedVal⟩
  case reservedOp | reservedWidth | zeroField | unusedIdx | unusedVal => decide
  all_goals exact decode_of_encode_word rfl rfl rfl

end Sys2Proof

namespace Sys2Proof.Machine

/-- The source's key literal is what the renderer prints of the key of 42_key_schedule.md section 3. -/
theorem renderBits_sourceKey : renderBits (0x133457799BBCDFF1 : Word) =
    "0001001100110100010101110111100110011011101111001101111111110001".toList := by
  decide

/-- Settles O51: the parser undoes the renderer, and checks the length, then the characters. -/
theorem sourceKeyLiteralIsAValidKey : Obligations.SourceKeyLiteralIsAValidKey := by
  refine ⟨?printed, ?longer, ?badCharacter⟩
  case printed => exact renderBits_sourceKey ▸ parseBits_renderBits _
  case longer => exact parseBits_of_length_ne (by decide)
  case badCharacter => exact parseBits_of_badChar (by decide) ⟨'2', List.mem_cons_self, by decide⟩

end Sys2Proof.Machine
